-- ==== Sys2Proof/Word.lean ====
section
/-! DEFINITION. The words the block moves: bytes of a frame, 16-bit fields, the 10-bit step word (R7, R90). -/

namespace Sys2Proof

/-- A byte of a host frame, of a result frame or of a command (R7). -/
abbrev Byte := BitVec 8

/-- A 16-bit field: address, action word, reply token, `packets_sent`, the compare interval (R7, R39). -/
abbrev Word := BitVec 16

/-- The step word (R90): `src` in bits 9:8, `op` in bits 7:0. -/
abbrev StepWord := BitVec 10

end Sys2Proof
end

