-- ==== Sys2Proof/Syntax.lean ====
section
/-! DEFINITION. The steps of the block as syntax: one constructor of `Instr` per row of spec/opcode_table.json, with the
operands each frame carries (R90 to R103), and the labels by which steps reach the block. -/

namespace Sys2Proof

/-- Polarity, the second half of a target identity (R10, R23). -/
inductive Polarity
  /-- code 0 -/
  | mobile
  /-- code 1 -/
  | accessory
  deriving DecidableEq, Repr

/-- Reply policy (R10, R28); code 3 is reserved and is no value. -/
inductive ReplyPolicy
  /-- code 0: NONE -/
  | never
  /-- code 1: AT_START -/
  | atStart
  /-- code 2: AT_END -/
  | atEnd
  deriving DecidableEq, Repr

/-- The two operand forms of a host command: its frame parses, or it has a wrong length, a reserved bit set or reply code 3
(R104, R105), in which case the bytes after the opcode are kept as they came and the command answers `BAD_ARG`. -/
inductive Args (α : Type)
  | ok (ops : α)
  | malformed (tail : List Byte)
  deriving DecidableEq, Repr

/-- Operands of ACQUIRE (R95). -/
structure AcquireArgs where
  pol    : Polarity
  ow     : Bool
  addr   : Word
  action : Word
  deriving DecidableEq, Repr

/-- Operands of EXTEND (R96); `n` is the length of `d`. -/
structure ExtendArgs where
  h     : Byte
  pre   : Byte
  post  : Byte
  dur   : Byte
  rw    : ReplyPolicy
  token : Word
  d     : List Byte
  deriving DecidableEq, Repr

/-- Operands of SUBMIT (R99); `n` is the length of `d`. -/
structure SubmitArgs where
  pol    : Polarity
  ow     : Bool
  addr   : Word
  action : Word
  pre    : Byte
  post   : Byte
  dur    : Byte
  rw     : ReplyPolicy
  token  : Word
  d      : List Byte
  deriving DecidableEq, Repr

/-- The steps of the block, one constructor per row of spec/opcode_table.json. -/
inductive Instr
  /-- R140 -/
  | acquire (a : Args AcquireArgs)
  /-- R143 -/
  | extend (a : Args ExtendArgs)
  /-- R146; the operand is the handle `h` -/
  | complete (a : Args Byte)
  /-- R149; the operand is the handle `h` -/
  | cancel (a : Args Byte)
  /-- R190 -/
  | submit (a : Args SubmitArgs)
  /-- R192 -/
  | freeBuffers (a : Args Unit)
  /-- R193 -/
  | packetsSent (a : Args Unit)
  /-- R194 -/
  | resetScan (a : Args Unit)
  /-- R195 -/
  | scanNext (a : Args Unit)
  /-- R160: the timer's compare match -/
  | tick
  /-- R180: the scheduler runs the Manager Task -/
  | mgrInvoke
  /-- R196: an unassigned opcode; the operand is the whole frame, which may be empty -/
  | badOpcode (frame : List Byte)
  deriving DecidableEq, Repr

/-- The label of a step (R90, R92): the step word, and for a host command its frame, byte 0 included. -/
structure StepLabel where
  word  : StepWord
  frame : List Byte
  deriving DecidableEq, Repr

/-- What the outside presents to the block, in the order it takes effect: the label of an agent's next step (R5), or reset
(R235), which is no step. -/
inductive Input
  | step (l : StepLabel)
  | reset
  deriving DecidableEq, Repr

end Sys2Proof
end

