-- ==== Sys2Proof/WellFormed.lean ====
section
/-! DEFINITION. Which terms of `Instr` stand for a label: the byte count fits its field, and a malformed operand form holds
bytes that really are malformed (R94 to R106). Written from the frame tables, not from the decoder. -/

namespace Sys2Proof

/-- Bits 7:2 of a flags byte are reserved and must be 0 (R95, R96, R99). -/
def flagsReservedClear (f : Byte) : Bool := f >>> 2 == 0#8

/-- Bits 1:0 of a reply flags byte are a reply policy code, not the reserved 3 (R96, R99). -/
def replyCodeDefined (f : Byte) : Bool := f &&& 3#8 != 3#8

/-- An ACQUIRE frame parses: 6 bytes, `frame[1][7:2] = 0` (R95); `t` is the frame after its opcode. -/
def acquireFrameGood (t : List Byte) : Bool :=
  t.length == 5 && flagsReservedClear (t.getD 0 0)

/-- An EXTEND frame parses: `9 + n` bytes with `n` in byte 8, flags byte 5 (R96). -/
def extendFrameGood (t : List Byte) : Bool :=
  8 ≤ t.length && t.length == 8 + (t.getD 7 0).toNat && flagsReservedClear (t.getD 4 0) && replyCodeDefined (t.getD 4 0)

/-- A COMPLETE or CANCEL frame parses: 2 bytes (R97, R98). -/
def handleFrameGood (t : List Byte) : Bool := t.length == 1

/-- A SUBMIT frame parses: `13 + n` bytes with `n` in byte 12, flags bytes 1 and 9 (R99). -/
def submitFrameGood (t : List Byte) : Bool :=
  12 ≤ t.length && t.length == 12 + (t.getD 11 0).toNat && flagsReservedClear (t.getD 0 0) &&
    flagsReservedClear (t.getD 8 0) && replyCodeDefined (t.getD 8 0)

/-- A frame with no operand parses: 1 byte (R100 to R103). -/
def emptyFrameGood (t : List Byte) : Bool := t.isEmpty

/-- Opcodes 0x01 to 0x09 are assigned, all others are not (R94). -/
def opcodeAssigned (op : Byte) : Bool := 1 ≤ op.toNat && op.toNat ≤ 9

/-- The terms that stand for a step label. -/
def Instr.wellFormed : Instr → Bool
  | .acquire (.ok _) => true
  | .acquire (.malformed t) => !acquireFrameGood t
  | .extend (.ok a) => a.d.length ≤ 255
  | .extend (.malformed t) => !extendFrameGood t
  | .complete (.ok _) => true
  | .complete (.malformed t) => !handleFrameGood t
  | .cancel (.ok _) => true
  | .cancel (.malformed t) => !handleFrameGood t
  | .submit (.ok a) => a.d.length ≤ 255
  | .submit (.malformed t) => !submitFrameGood t
  | .freeBuffers (.ok _) => true
  | .freeBuffers (.malformed t) => !emptyFrameGood t
  | .packetsSent (.ok _) => true
  | .packetsSent (.malformed t) => !emptyFrameGood t
  | .resetScan (.ok _) => true
  | .resetScan (.malformed t) => !emptyFrameGood t
  | .scanNext (.ok _) => true
  | .scanNext (.malformed t) => !emptyFrameGood t
  | .tick => true
  | .mgrInvoke => true
  | .badOpcode f =>
    match f with
    | [] => true
    | op :: _ => !opcodeAssigned op

end Sys2Proof
end

