-- ==== Sys2Proof/Decode.lean ====
section
/-! DEFINITION. Step labels to steps and back (R90 to R106). `decode` is total on every word and every frame and rejects by
name; `encode` is written from the same frame tables. -/

namespace Sys2Proof

/-- Why a label is no step of the block (R91). Nothing outside the block can produce such a label. -/
inductive Reject
  /-- `src` = 3 (R91, R105, I11) -/
  | reservedSource
  /-- `src` = 1 or 2 with `op` other than 0 (R91, I11) -/
  | operationNotZero
  /-- a frame beside a timer or task word: only host commands have one (R90) -/
  | frameWithoutCommand
  /-- `src` = 0 and `op` is not byte 0 of the frame (R90); an empty frame goes with `op` = 0 -/
  | opcodeNotFrameByte
  deriving DecidableEq, Repr

/-- `u16(b_lo, b_hi)` (R93): little-endian (R64). -/
def u16 (lo hi : Byte) : Word := hi.setWidth 16 <<< 8 ||| lo.setWidth 16

/-- Bits 7:0 of a 16-bit field. -/
def loByte (w : Word) : Byte := w.setWidth 8

/-- Bits 15:8 of a 16-bit field. -/
def hiByte (w : Word) : Byte := (w >>> 8).setWidth 8

/-- The codes of R10. -/
def Polarity.code : Polarity → Byte
  | .mobile => 0
  | .accessory => 1

/-- Bit 0 of a flags byte (R95, R99). -/
def polarityOf (f : Byte) : Polarity := if f.getLsbD 0 then .accessory else .mobile

/-- Bit 1 of a flags byte (R95, R99): overwrite requested. -/
def overwriteOf (f : Byte) : Bool := f.getLsbD 1

/-- The codes of R10. -/
def ReplyPolicy.code : ReplyPolicy → Byte
  | .never => 0
  | .atStart => 1
  | .atEnd => 2

/-- Bits 1:0 of a reply flags byte (R96, R99); code 3 is reserved. -/
def replyPolicyOf (f : Byte) : Option ReplyPolicy :=
  match (f &&& 3#8).toNat with
  | 0 => some .never
  | 1 => some .atStart
  | 2 => some .atEnd
  | _ => none

/-- ACQUIRE's operands from the frame after its opcode (R95). -/
def parseAcquire (t : List Byte) : Args AcquireArgs :=
  match t with
  | [f, a0, a1, c0, c1] =>
    if flagsReservedClear f then
      .ok { pol := polarityOf f, ow := overwriteOf f, addr := u16 a0 a1, action := u16 c0 c1 }
    else .malformed t
  | _ => .malformed t

/-- EXTEND's operands (R96). -/
def parseExtend (t : List Byte) : Args ExtendArgs :=
  match t with
  | h :: pre :: post :: dur :: f :: k0 :: k1 :: n :: d =>
    if d.length = n.toNat ∧ flagsReservedClear f then
      match replyPolicyOf f with
      | some rw => .ok { h, pre, post, dur, rw, token := u16 k0 k1, d }
      | none => .malformed t
    else .malformed t
  | _ => .malformed t

/-- COMPLETE's and CANCEL's operand (R97, R98). -/
def parseHandle (t : List Byte) : Args Byte :=
  match t with
  | [h] => .ok h
  | _ => .malformed t

/-- SUBMIT's operands (R99). -/
def parseSubmit (t : List Byte) : Args SubmitArgs :=
  match t with
  | f :: a0 :: a1 :: c0 :: c1 :: pre :: post :: dur :: g :: k0 :: k1 :: n :: d =>
    if d.length = n.toNat ∧ flagsReservedClear f ∧ flagsReservedClear g then
      match replyPolicyOf g with
      | some rw =>
        .ok { pol := polarityOf f, ow := overwriteOf f, addr := u16 a0 a1, action := u16 c0 c1,
              pre, post, dur, rw, token := u16 k0 k1, d }
      | none => .malformed t
    else .malformed t
  | _ => .malformed t

/-- A command with no operand (R100 to R103). -/
def parseNone (t : List Byte) : Args Unit :=
  match t with
  | [] => .ok ()
  | _ => .malformed t

/-- The host opcode map (R94); `t` is the frame after its opcode `op`. -/
def decodeFrame (op : Byte) (t : List Byte) : Instr :=
  match op.toNat with
  | 1 => .acquire (parseAcquire t)
  | 2 => .extend (parseExtend t)
  | 3 => .complete (parseHandle t)
  | 4 => .cancel (parseHandle t)
  | 5 => .submit (parseSubmit t)
  | 6 => .freeBuffers (parseNone t)
  | 7 => .packetsSent (parseNone t)
  | 8 => .resetScan (parseNone t)
  | 9 => .scanNext (parseNone t)
  | _ => .badOpcode (op :: t)

/-- `src`, bits 9:8 of the step word (R90). -/
def sourceOf (w : StepWord) : BitVec 2 := (w >>> 8).setWidth 2

/-- `op`, bits 7:0 of the step word (R90). -/
def operationOf (w : StepWord) : Byte := w.setWidth 8

/-- A timer or task label: `op` must be 0 and there is no frame (R90, R91). -/
def decodeBare (l : StepLabel) (i : Instr) : Except Reject Instr :=
  if operationOf l.word = 0 then
    if l.frame = [] then .ok i else .error .frameWithoutCommand
  else .error .operationNotZero

/-- A host label: `op` is byte 0 of the frame (R90, R92); the empty frame is an unassigned opcode (R196). -/
def decodeHost (l : StepLabel) : Except Reject Instr :=
  match l.frame with
  | [] => if operationOf l.word = 0 then .ok (.badOpcode []) else .error .opcodeNotFrameByte
  | op :: t => if operationOf l.word = op then .ok (decodeFrame op t) else .error .opcodeNotFrameByte

/-- The step a label stands for (R91). -/
def decode (l : StepLabel) : Except Reject Instr :=
  match (sourceOf l.word).toNat with
  | 0 => decodeHost l
  | 1 => decodeBare l .tick
  | 2 => decodeBare l .mgrInvoke
  | _ => .error .reservedSource

/-- The flags byte of ACQUIRE and SUBMIT (R95, R99). -/
def identityFlags (pol : Polarity) (ow : Bool) : Byte := pol.code ||| (if ow then 2#8 else 0#8)

/-- A frame's bytes after its opcode, from the operands when they parsed and as they came when they did not. -/
def argBytes {α : Type} (good : α → List Byte) : Args α → List Byte
  | .ok a => good a
  | .malformed t => t

/-- ACQUIRE's frame after its opcode (R95). -/
def acquireBytes (a : AcquireArgs) : List Byte :=
  [identityFlags a.pol a.ow, loByte a.addr, hiByte a.addr, loByte a.action, hiByte a.action]

/-- EXTEND's frame after its opcode (R96). -/
def extendBytes (a : ExtendArgs) : List Byte :=
  [a.h, a.pre, a.post, a.dur, a.rw.code, loByte a.token, hiByte a.token, BitVec.ofNat 8 a.d.length] ++ a.d

/-- SUBMIT's frame after its opcode (R99). -/
def submitBytes (a : SubmitArgs) : List Byte :=
  [identityFlags a.pol a.ow, loByte a.addr, hiByte a.addr, loByte a.action, hiByte a.action, a.pre, a.post, a.dur,
    a.rw.code, loByte a.token, hiByte a.token, BitVec.ofNat 8 a.d.length] ++ a.d

/-- The label of a host command: `src` = 0 and `op` byte 0 of the frame (R90). -/
def hostLabel (op : Byte) (t : List Byte) : StepLabel := { word := op.setWidth 10, frame := op :: t }

/-- The label a step is presented by (R90 to R103). -/
def encode : Instr → StepLabel
  | .acquire a => hostLabel 1 (argBytes acquireBytes a)
  | .extend a => hostLabel 2 (argBytes extendBytes a)
  | .complete a => hostLabel 3 (argBytes (fun h => [h]) a)
  | .cancel a => hostLabel 4 (argBytes (fun h => [h]) a)
  | .submit a => hostLabel 5 (argBytes submitBytes a)
  | .freeBuffers a => hostLabel 6 (argBytes (fun _ => []) a)
  | .packetsSent a => hostLabel 7 (argBytes (fun _ => []) a)
  | .resetScan a => hostLabel 8 (argBytes (fun _ => []) a)
  | .scanNext a => hostLabel 9 (argBytes (fun _ => []) a)
  | .tick => { word := 0x100, frame := [] }
  | .mgrInvoke => { word := 0x200, frame := [] }
  | .badOpcode f =>
    match f with
    | [] => { word := 0, frame := [] }
    | op :: t => hostLabel op t

/-- How many operand bytes an opcode has when they are all 0 (R94, with `n` = 0). -/
def operandBytes (op : Byte) : Nat :=
  match op.toNat with
  | 1 => 5
  | 2 => 8
  | 3 => 1
  | 4 => 1
  | 5 => 12
  | _ => 0

/-- The label whose step word is `w`, numbered as spec/opcode_table.json numbers it (bit 0 first, 10 bits: there is no bit
above 9), its frame's operand bytes all 0. -/
def tableLabel (_nbits w : Nat) : StepLabel :=
  let word := BitVec.ofNat 10 w
  { word
    frame := if sourceOf word = 0 then operationOf word :: List.replicate (operandBytes (operationOf word)) 0 else [] }

/-- What the decoder reads from a word of the opcode table. -/
def decodeTableWord (nbits w : Nat) : Option Instr :=
  match decode (tableLabel nbits w) with
  | .ok i => some i
  | .error _ => none

end Sys2Proof
end

