-- ==== Sys2Proof/Config.lean ====
section
/-! DEFINITION. What an implementation fixes: the parameters of R6, as plain data, and the values the spec leaves free. -/

namespace Sys2Proof

/-- The implementation parameters (R6). No step writes them (R20). -/
structure Config where
  /-- `NUM_BUFFERS` (D2) -/
  numBuffers     : Nat
  /-- `NUM_PENDING` (D3) -/
  numPending     : Nat
  /-- `MAX_COMMAND` (D4) -/
  maxCommand     : Nat
  /-- `MAX_TRANSITIONS` (D5) -/
  maxTransitions : Nat
  /-- `RUN_WIDTH` (D6) -/
  runWidth       : Nat
  /-- `TIMER_HZ` (D7) -/
  timerHz        : Nat
  /-- `HALF_ONE_TICKS` (D7) -/
  halfOneTicks   : Word
  /-- `HALF_ZERO_TICKS` (D7) -/
  halfZeroTicks  : Word
  /-- `IDLE_BYTES` (D8) -/
  idleBytes      : List Byte
  /-- `IDLE_PREAMBLE` (D8) -/
  idlePreamble   : Byte
  /-- `IDLE_POSTAMBLE` (D8) -/
  idlePostamble  : Byte
  deriving DecidableEq, Repr

/-- The default column of R6. -/
def Config.default : Config where
  numBuffers := 8
  numPending := 16
  maxCommand := 6
  maxTransitions := 52
  runWidth := 8
  timerHz := 2000000
  halfOneTicks := 116
  halfZeroTicks := 200
  idleBytes := [0xFF, 0x00, 0xFF]
  idlePreamble := 14
  idlePostamble := 1

/-- `RUN_MAX` (R6). -/
def Config.runMax (c : Config) : Nat := 2 ^ c.runWidth - 1

/-- The constraint column of R6. -/
def Config.inRange (c : Config) : Bool :=
  2 ≤ c.numBuffers && c.numBuffers ≤ 255 && 1 ≤ c.numPending && c.numPending ≤ 255 &&
  1 ≤ c.maxCommand && c.maxCommand ≤ 255 && 2 ≤ c.maxTransitions && c.maxTransitions ≤ 65535 &&
  8 ≤ c.runWidth && c.runWidth ≤ 16 && 0 < c.timerHz && c.halfOneTicks != 0 && c.halfZeroTicks != 0 &&
  1 ≤ c.idleBytes.length && c.idleBytes.length ≤ c.maxCommand && c.idlePreamble != 0 && c.idlePostamble != 0

/-- The free value of R220 and I18 (log 1): when neither the host nor anything else has put the next step in order and both a
TICK and an MGR_INVOKE are enabled, whether the MGR_INVOKE comes first. It has no body: nothing can be proved of it. -/
opaque Config.managerFirst : Nat → Bool

/-- The free value of I15 (log 18): a command byte that holds no value, where a step reads one all the same. It has no body: nothing can be
proved of it. -/
opaque Config.absentByte : Nat → Byte

/-- The free value of I14 (log 7): an array entry after the terminator, which holds no value, where a step reads one all the same. It has no
body: nothing can be proved of it. -/
opaque Config.absentEntry : Nat → Nat

/-- The free value of a countdown with nothing below it (log 12): what `eng.half` - 1 is when `eng.half` is 0. It has no body: nothing can be
proved of it. -/
opaque Config.halfBelowZero : Nat → Fin 3

end Sys2Proof
end

