-- ==== Sys2Proof/Machine/Encoder.lean ====
section
/-! DEFINITION. The Bitstream Encoder (R110 to R118) and the run-length arrays it makes (R80 to R85). -/

namespace Sys2Proof.Machine

/-- `H(v)` (R88): timer counts in one half of a bit of value `v`. -/
def halfBitTicks (c : Config) (v : Bool) : Word := if v then c.halfOneTicks else c.halfZeroTicks

/-- The value of the bits that entry `i` of an array counts (R80): even entries count 1-bits. -/
def entryBit (i : Nat) : Bool := i % 2 == 0

/-- The bits a list of entries stands for when its first entry counts bits of value `v`, up to the first zero entry. -/
def bitsFrom (v : Bool) : List Nat → List Bool
  | [] => []
  | e :: rest => if e = 0 then [] else List.replicate e v ++ bitsFrom (!v) rest

/-- `bits(a)` (R82). -/
def arrayBits (a : List Nat) : List Bool := bitsFrom true a

/-- A well-formed array (R83): entry 0 is not 0, and a terminator stands within `MAX_TRANSITIONS` entries. Entries the list
does not hold are absent (R31). -/
def arrayWellFormed (c : Config) (a : List Nat) : Bool :=
  a.getD 0 0 != 0 &&
  match a.findIdx? (· == 0) with
  | some t => 1 ≤ t && t ≤ c.maxTransitions - 1
  | none => false

/-- A command byte's bits, MSB first (R63). -/
def byteBits (b : Byte) : List Bool :=
  [b.getLsbD 7, b.getLsbD 6, b.getLsbD 5, b.getLsbD 4, b.getLsbD 3, b.getLsbD 2, b.getLsbD 1, b.getLsbD 0]

/-- A command byte as sent: its 0 start bit, then its bits (R85). -/
def framedByte (b : Byte) : List Bool := false :: byteBits b

/-- The bit sequence of a packet (R85). -/
def packetBits (d : List Byte) (pre post : Nat) : List Bool :=
  List.replicate pre true ++ d.flatMap framedByte ++ List.replicate post true

/-- The runs so far, newest first, and `cur`, the value of the open (newest) run (R110). -/
structure Runs where
  cur    : Bool
  newest : List Nat
  deriving DecidableEq, Repr

/-- `PUSH_N(v, k)` (R110, R112). -/
def pushN (r : Runs) (v : Bool) (k : Nat) : Runs :=
  match r.newest with
  | open_ :: older => if v = r.cur then { r with newest := (open_ + k) :: older } else { cur := v, newest := k :: open_ :: older }
  | [] => { cur := v, newest := [k] }

/-- `PUSH(v)`. -/
def push (r : Runs) (v : Bool) : Runs := pushN r v 1

/-- The runs of a packet in array order (R110): preamble, each byte, postamble. -/
def packetRuns (d : List Byte) (pre post : Nat) : List Nat :=
  let start : Runs := { cur := true, newest := [pre] }
  (pushN ((d.flatMap framedByte).foldl push start) true post).newest.reverse

/-- What ENCODE answers (R110). -/
inductive Encoded
  | ok (a : List Nat)
  | overflow
  | badArg
  deriving DecidableEq, Repr

/-- `ARGS_OK` (R111). -/
def argsOk (c : Config) (n pre post : Nat) : Bool :=
  1 ≤ pre && pre ≤ 255 && 1 ≤ post && post ≤ 255 && 1 ≤ n && n ≤ c.maxCommand

/-- ENCODE (R110): argument check (R111), run overflow (R113), capacity overflow (R114), then the runs and the terminator. -/
def encodePacket (c : Config) (d : List Byte) (pre post : Nat) : Encoded :=
  if !argsOk c d.length pre post then .badArg
  else
    let runs := packetRuns d pre post
    if runs.any (c.runMax < ·) then .overflow
    else if c.maxTransitions < runs.length + 1 then .overflow
    else .ok (runs ++ [0])

/-- The fixed buffer's array (R236): the idle packet encoded. -/
def idleEncoded (c : Config) : Encoded :=
  encodePacket c c.idleBytes c.idlePreamble.toNat c.idlePostamble.toNat

/-- The array ENCODE answered, none when it failed. -/
def Encoded.array : Encoded → List Nat
  | .ok a => a
  | _ => []

/-- ENCODE answered an array. -/
def Encoded.isOk : Encoded → Bool
  | .ok _ => true
  | _ => false

/-- A configuration describes hardware when it is in range and its idle packet encodes (R6, R236). -/
def configValid (c : Config) : Bool := c.inRange && (idleEncoded c).isOk

end Sys2Proof.Machine
end

