-- ==== Sys2Proof/Machine/Records.lean ====
section
/-! DEFINITION. The records and enumerations the state is made of (R10, R21 to R43), as plain data. -/

namespace Sys2Proof.Machine

/-- Buffer states (R10, R22), one constructor for each value of the 3-bit field; codes 5 to 7 are reserved and never occur in a
reachable state. `BufState.code` maps them to their codes. -/
inductive BufState
  /-- code 0 -/
  | empty
  /-- code 1 -/
  | fixed
  /-- code 2 -/
  | load
  /-- code 3 -/
  | run
  /-- code 4 -/
  | reload
  /-- code 5 -/
  | reserved5
  /-- code 6 -/
  | reserved6
  /-- code 7 -/
  | reserved7
  deriving DecidableEq, Repr

/-- One transmission buffer (R22 to R32). A handle or `NIL` is an `Option Nat`, so that a link outside the handle space can be
written down (R62). -/
structure Buffer where
  /-- R22 -/
  state       : BufState
  /-- R23 -/
  addr        : Word
  /-- R23 -/
  pol         : Polarity
  /-- R24 -/
  action      : Word
  /-- `repeat` (R25); 0 = forever -/
  repeatCount : Byte
  /-- `arr` (R26): the entries that hold a value, from entry 0 on; entries past the list are absent (R31) -/
  arr         : List Nat
  /-- R27 -/
  phead       : Option Nat
  /-- R27 -/
  ptail       : Option Nat
  /-- R28 -/
  replyWhen   : ReplyPolicy
  /-- R28 -/
  replyToken  : Word
  /-- R29 -/
  next        : Option Nat
  /-- R29 -/
  prev        : Option Nat
  /-- R30 -/
  linked      : Bool
  /-- `open` (R30) -/
  isOpen      : Bool
  /-- R32 -/
  fnext       : Option Nat
  deriving DecidableEq, Repr

/-- One pending-packet record (R33). `bytes` holds the bytes that hold a value, from index 0 on. -/
structure Packet where
  pre   : Byte
  post  : Byte
  dur   : Byte
  len   : Byte
  bytes : List Byte
  next  : Option Nat
  deriving DecidableEq, Repr

/-- The pool registers (R34). -/
structure Pool where
  freeHead  : Option Nat
  pfreeHead : Option Nat
  deriving DecidableEq, Repr

/-- The Timing Engine registers (R35). -/
structure Engine where
  cursor : Nat
  idx    : Nat
  left   : Nat
  half   : Fin 3
  bitval : Bool
  track  : Bool
  cmp    : Word
  deriving DecidableEq, Repr

/-- Status codes (R10, R210). -/
inductive Status
  | ok | noBuffer | noPending | overflow | badArg | badHandle | badOpcode | endOfScan
  deriving DecidableEq, Repr

/-- Fatal codes (R10, R215). -/
inductive FatalCode
  | badState | emptyArray | encode | index | ring
  deriving DecidableEq, Repr

/-- Output events (R42). -/
inductive Event
  | reply (token : Word)
  | diag (code : Status)
  | fatal (code : FatalCode)
  deriving DecidableEq, Repr

end Sys2Proof.Machine
end

