-- ==== Sys2Proof/Machine/ResetValues.lean ====
section
/-! DEFINITION. What reset leaves in each record and register (R48, R235 to R239), for any configuration. -/

namespace Sys2Proof.Machine

/-- Buffer 0 after reset (R236): the fixed buffer, alone on the ring. `fnext` of the fixed buffer has no stated value and is
never read (log 3). -/
def resetFixedBuffer (c : Config) : Buffer where
  state := .fixed
  addr := 0
  pol := .mobile
  action := 0
  repeatCount := 0
  arr := (idleEncoded c).array
  phead := none
  ptail := none
  replyWhen := .never
  replyToken := 0
  next := some 0
  prev := some 0
  linked := true
  isOpen := false
  fnext := none

/-- Pool buffer `h` after reset (R48, R238): empty, and followed on the free list by `h + 1`. DESIGN CHOICE (log 3): the identity,
action, repeat and token, which R48 leaves unspecified, hold 0. -/
def resetPoolBuffer (c : Config) (h : Nat) : Buffer where
  state := .empty
  addr := 0
  pol := .mobile
  action := 0
  repeatCount := 0
  arr := []
  phead := none
  ptail := none
  replyWhen := .never
  replyToken := 0
  next := none
  prev := none
  linked := false
  isOpen := false
  fnext := if h + 1 < c.numBuffers then some (h + 1) else none

/-- The buffer arena after reset. -/
def resetBuffers (c : Config) : List Buffer :=
  (List.range c.numBuffers).map fun h => if h = 0 then resetFixedBuffer c else resetPoolBuffer c h

/-- Pending record `p` after reset (R48, R238): on the pending free list before `p + 1`. DESIGN CHOICE (log 3): the other fields,
which R48 leaves unspecified, hold 0 and no byte. -/
def resetPacket (c : Config) (p : Nat) : Packet where
  pre := 0
  post := 0
  dur := 0
  len := 0
  bytes := []
  next := if p + 1 < c.numPending then some (p + 1) else none

/-- The pending arena after reset. -/
def resetPackets (c : Config) : List Packet := (List.range c.numPending).map (resetPacket c)

/-- The pool registers after reset (R48, R238). -/
def resetPool : Pool where
  freeHead := some 1
  pfreeHead := some 0

/-- The Timing Engine after reset (R237): on bit 0 of the fixed buffer's array. -/
def resetEngine (c : Config) : Engine where
  cursor := 0
  idx := 0
  left := (idleEncoded c).array.getD 0 0 - 1
  half := 2
  bitval := true
  track := false
  cmp := halfBitTicks c true

end Sys2Proof.Machine
end

