-- ==== Sys2Proof/Machine/State.lean ====
section
/-! DEFINITION. The state of the block (R20), the reasons a step can stop, and the state after reset. -/

namespace Sys2Proof.Machine

/-- The tuple of R20 and, after it, the model's own fields. -/
structure State where
  /-- R21 -/
  bufs        : List Buffer
  /-- R33 -/
  pkts        : List Packet
  /-- R34 -/
  pool        : Pool
  /-- R35 -/
  eng         : Engine
  /-- R40 -/
  latch       : Bool
  /-- R41 -/
  packetsSent : Word
  /-- R41 -/
  scanPos     : Byte
  /-- R42, oldest event first -/
  history     : List Event
  /-- R43 -/
  halted      : Bool
  /-- R43 -/
  fatalCode   : BitVec 3
  /-- the configuration (R6), which no step writes (R20) (log 4) -/
  cfg         : Config
  /-- the inputs the outside has put in order and the block has not yet taken (R5, R220) (log 1) -/
  agenda      : List Input
  /-- how often the order of two enabled agents was left to `Config.managerFirst` (log 1) -/
  schedCount  : Nat
  /-- how many free values the steps have read, `Config.absentByte`, `Config.absentEntry` and
  `Config.halfBelowZero` together (log 7, log 12, log 18) -/
  openCount   : Nat
  /-- the result frame of the step just taken (R92), empty when it has none (log 5) -/
  result      : List Byte
  deriving DecidableEq, Repr

/-- Why the block has no next state. All are safe: a step that stops proves nothing false. -/
inductive Fault
  /-- `halted` = 1, so no agent has a step (R216): raised by every step of a halted block. Safe. -/
  | halted
  /-- A read of an entry of an array that has never been written (R31, R161, I13, D40): raised by TICK, and unreachable (R44.4). Safe. -/
  | unwrittenEntry
  /-- The loop of RELEASE_QUEUE (R132) never ends, so the step has no next state: raised by ACQUIRE, CANCEL and SUBMIT, and
  unreachable (log 9). Safe. -/
  | endlessQueue
  deriving DecidableEq, Repr

/-- Why the model gives an input no meaning. -/
inductive Refusal
  /-- An instruction of the table without a meaning; no arm of `exec` answers this. Safe. -/
  | notModelled (mnemonic : String)
  /-- A label that is no step of the block (R91, R105): raised by `step`. Safe. -/
  | noSuchStep (why : Reject)
  /-- MGR_INVOKE while `latch` = 0 has no step (R181): raised by MGR_INVOKE. Safe. -/
  | managerNotEnabled
  /-- The configuration describes no hardware (R6, R11, R236): raised by `step`. Safe. -/
  | configurationRefused
  deriving DecidableEq, Repr

/-- The state after reset under a configuration (R235), before anything has been put on the agenda. -/
def State.resetWith (c : Config) : State where
  bufs := resetBuffers c
  pkts := resetPackets c
  pool := resetPool
  eng := resetEngine c
  latch := false
  packetsSent := 0
  scanPos := 0
  history := []
  halted := false
  fatalCode := 0
  cfg := c
  agenda := []
  schedCount := 0
  openCount := 0
  result := []

/-- The machine right after reset (R48), in the default configuration of R6. -/
def State.reset : State := State.resetWith Config.default

/-- The two arenas in their canonical form: exactly one record per handle (R60). -/
def Memory.wf (s : State) : Bool := s.bufs.length == s.cfg.numBuffers && s.pkts.length == s.cfg.numPending

end Sys2Proof.Machine
end

