-- ==== Sys2Proof/Machine/Ops.lean ====
section
/-! DEFINITION. The named operations over the arenas and registers (R60, R130 to R136), and the entry of a fatal fault (R216). -/

namespace Sys2Proof.Machine

/-- Why a piece of a step does not go on: a fatal fault (R215), whose entry is a next state, or a model fault. -/
inductive Stop
  | fatal (c : FatalCode)
  | model (f : Fault)
  deriving DecidableEq, Repr

/-- A piece of a step: it goes on with a value or stops. -/
abbrev Attempt (α : Type) := Except Stop α

/-- `raise Fatal(code)` (R9). -/
def raise {α : Type} (c : FatalCode) : Attempt α := .error (.fatal c)

/-- The 3-bit codes of the buffer states (R10, R22). -/
def BufState.code : BufState → BitVec 3
  | .empty => 0
  | .fixed => 1
  | .load => 2
  | .run => 3
  | .reload => 4
  | .reserved5 => 5
  | .reserved6 => 6
  | .reserved7 => 7

/-- The code of R10. -/
def FatalCode.code : FatalCode → BitVec 3
  | .badState => 1
  | .emptyArray => 2
  | .encode => 3
  | .index => 4
  | .ring => 5

/-- The output of the step before is gone (log 5). -/
def State.clearResult (s : State) : State := { s with result := [] }

/-- A write of `pool.free_head` (R34). -/
def State.setFreeHead (s : State) (l : Option Nat) : State := { s with pool := { s.pool with freeHead := l } }

/-- A write of `pool.pfree_head` (R34). -/
def State.setPfreeHead (s : State) (l : Option Nat) : State := { s with pool := { s.pool with pfreeHead := l } }

/-- A write of the Timing Engine registers (R35). -/
def State.setEng (s : State) (e : Engine) : State := { s with eng := e }

/-- A write of `scan_pos` (R41). -/
def State.setScanPos (s : State) (n : Byte) : State := { s with scanPos := n }

/-- A write of `packets_sent` (R41). -/
def State.setPacketsSent (s : State) (n : Word) : State := { s with packetsSent := n }

/-- A write of the whole history, for SUBMIT's roll-back (R190). -/
def State.setHistory (s : State) (l : List Event) : State := { s with history := l }

/-- A step has read `n` more free values (log 7, log 12, log 18). -/
def State.countOpen (s : State) (n : Nat) : State := { s with openCount := s.openCount + n }

/-- `emit` (R9, R42). -/
def State.emit (s : State) (e : Event) : State := { s with history := s.history ++ [e] }

/-- Fatal entry (R216): everything is as before the step, but `halted`, `fatal_code` and the `Fatal` event. -/
def State.fatalEntry (s : State) (c : FatalCode) : State :=
  { s.emit (.fatal c) with halted := true, fatalCode := c.code }

/-- The end of a step that began in `s`. -/
def settle (s : State) : Attempt State → Host.Outcome State Fault Refusal
  | .ok t => .next t
  | .error (.fatal c) => .next (s.fatalEntry c)
  | .error (.model f) => .fault f

/-- One step: while `halted` = 1 there is none (R216); otherwise the output of the step before is gone (log 5) and the body runs. -/
def runStep (s : State) (body : State → Attempt State) : Host.Outcome State Fault Refusal :=
  if s.halted then .fault .halted
  else settle s.clearResult (body s.clearResult)

/-- Reset as an event (R235, R217): every piece of the spec's state takes its reset value; what the outside has still to present
stays. -/
def State.resetEvent (s : State) : State :=
  { State.resetWith s.cfg with agenda := s.agenda, schedCount := s.schedCount, openCount := s.openCount }

/-- A read of buffer record `h` (R60); outside the handle space it is `F_RING` (R62). -/
def State.buf (s : State) (h : Nat) : Attempt Buffer :=
  match s.bufs[h]? with
  | some b => .ok b
  | none => raise .ring

/-- A read of pending record `p` (R60); outside the handle space it is `F_RING` (R62). -/
def State.pkt (s : State) (p : Nat) : Attempt Packet :=
  match s.pkts[p]? with
  | some k => .ok k
  | none => raise .ring

/-- A write of fields of buffer record `h`. -/
def State.updBuf (s : State) (h : Nat) (f : Buffer → Buffer) : State := { s with bufs := s.bufs.modify h f }

/-- A write of fields of pending record `p`. -/
def State.updPkt (s : State) (p : Nat) (f : Packet → Packet) : State := { s with pkts := s.pkts.modify p f }

/-- The handle a link holds where the invariants promise one (R62): `NIL` is `F_RING`. -/
def handleOf (l : Option Nat) : Attempt Nat :=
  match l with
  | some h => .ok h
  | none => raise .ring

/-- Stops with `F_BAD_STATE` unless the condition holds (R44, R138, R215). DESIGN CHOICE (log 22): R213 names no fatal fault of a host
command but `F_ENCODE`; in a corrupted state the model follows R44, R138 and R215, for host commands too. -/
def expectState (ok : Bool) : Attempt Unit := if ok then .ok () else raise .badState

/-- POP_FREE (R130). A buffer on the free list that is not `EMPTY` is a broken invariant 2 (R44): `F_BAD_STATE` (log 10, log 22). -/
def State.popFree (s : State) : Attempt (Nat × State) := do
  let h ← handleOf s.pool.freeHead
  let b ← s.buf h
  expectState (b.state == .empty)
  return (h, (s.setFreeHead b.fnext).updBuf h fun b => { b with fnext := none })

/-- PUSH_FREE (R130). -/
def State.pushFree (s : State) (h : Nat) : State :=
  (s.updBuf h fun b => { b with fnext := s.pool.freeHead }).setFreeHead (some h)

/-- POP_PFREE (R131). -/
def State.popPfree (s : State) : Attempt (Nat × State) := do
  let p ← handleOf s.pool.pfreeHead
  let k ← s.pkt p
  return (p, (s.setPfreeHead k.next).updPkt p fun k => { k with next := none })

/-- PUSH_PFREE (R131). -/
def State.pushPfree (s : State) (p : Nat) : State :=
  (s.updPkt p fun k => { k with next := s.pool.pfreeHead }).setPfreeHead (some p)

/-- The loop of RELEASE_QUEUE (R132) from link `l`, with at most the given number of turns left. One that takes more than two turns for each
record never ends (log 9). -/
def releaseFrom : Nat → Option Nat → State → Attempt State
  | _, none, s => .ok s
  | 0, some p, s => do
    let _ ← s.pkt p
    .error (.model .endlessQueue)
  | n + 1, some p, s => do
    let k ← s.pkt p
    releaseFrom n k.next (s.pushPfree p)

/-- RELEASE_QUEUE (R132). -/
def State.releaseQueue (s : State) (h : Nat) : Attempt State := do
  let b ← s.buf h
  let t ← releaseFrom (2 * s.pkts.length) b.phead s
  return t.updBuf h fun b => { b with phead := none, ptail := none }

/-- LINK_AFTER (R133). -/
def State.linkAfter (s : State) (c h : Nat) : Attempt State := do
  let bc ← s.buf c
  let n ← handleOf bc.next
  let _ ← s.buf n
  let s := s.updBuf h fun b => { b with next := some n, prev := some c }
  let s := s.updBuf n fun b => { b with prev := some h }
  let s := s.updBuf c fun b => { b with next := some h }
  return s.updBuf h fun b => { b with linked := true }

/-- UNLINK (R134). -/
def State.unlink (s : State) (h : Nat) : Attempt State := do
  let b ← s.buf h
  let pv ← handleOf b.prev
  let nx ← handleOf b.next
  let _ ← s.buf pv
  let _ ← s.buf nx
  let s := s.updBuf pv fun b => { b with next := some nx }
  let s := s.updBuf nx fun b => { b with prev := some pv }
  return s.updBuf h fun b => { b with next := none, prev := none, linked := false }

/-- The handles met from link `l` on before buffer 0 comes round again (R135). A ring that does not close within the given number
of buffers is broken: `F_RING` (R44.1, log 9; in a host command log 22). -/
def State.ringFrom (s : State) : Nat → Option Nat → Attempt (List Nat)
  | 0, l => if l = some 0 then .ok [] else raise .ring
  | n + 1, l =>
    if l = some 0 then .ok []
    else do
      let h ← handleOf l
      let b ← s.buf h
      let rest ← s.ringFrom n b.next
      return h :: rest

/-- RING_ORDER (R135): the linked buffers other than buffer 0. -/
def State.ringOrder (s : State) : Attempt (List Nat) := do
  let b ← s.buf 0
  s.ringFrom (s.cfg.numBuffers - 1) b.next

/-- A buffer on the ring, other than buffer 0, is in `RUN`, `RELOAD` or `LOAD` (R44.3). A step that reads its state and finds
`EMPTY` raises `F_RING` (R215, I17), and `F_BAD_STATE` for any other state (R22, R215, I7) (log 8; in a host command log 22). -/
def expectLive (b : Buffer) : Attempt Unit :=
  match b.state with
  | .load => .ok ()
  | .run => .ok ()
  | .reload => .ok ()
  | .empty => raise .ring
  | _ => raise .badState

/-- How many of the bytes `bytes[0 .. len-1]` of a pending record hold no value (R33). -/
def Packet.absent (k : Packet) : Nat := k.len.toNat - k.bytes.length

/-- The command bytes of a pending record, `bytes[0 .. len-1]` (R136). One that holds no value reads as a free value (I15, log 18). -/
def State.command (s : State) (k : Packet) : List Byte :=
  k.bytes.take k.len.toNat ++ (List.range k.absent).map fun i => Config.absentByte (s.openCount + i)

/-- The reply policy of buffer `h` fires (R28, R42): the event, and the policy is `NONE` again. -/
def State.fireReply (s : State) (h : Nat) (token : Word) : State :=
  (s.emit (.reply token)).updBuf h fun b => { b with replyWhen := .never }

/-- LOAD_HEAD (R136). Its precondition `LOAD` is checked: `F_BAD_STATE` (R138, log 10). -/
def State.loadHead (s : State) (h : Nat) : Attempt State := do
  let b ← s.buf h
  expectState (b.state == .load)
  let p ← handleOf b.phead
  let k ← s.pkt p
  match encodePacket s.cfg (s.command k) k.pre.toNat k.post.toNat with
  | .ok a =>
    let s := (s.countOpen k.absent).updBuf h fun b =>
      { b with arr := a, repeatCount := k.dur, phead := k.next, ptail := if k.next = none then none else b.ptail }
    let s := s.pushPfree p
    let s := if k.next = none ∧ b.replyWhen = .atStart then s.fireReply h b.replyToken else s
    return s.updBuf h fun b => { b with state := .run }
  | _ => raise .encode

end Sys2Proof.Machine
end

