-- ==== Sys2Proof/Machine/Flags.lean ====
section
/-! DEFINITION. The one-bit state of the block: the completion latch (R40, R72) and the engine's level, bit value and compare
interval (R37 to R39). The block has no condition codes. -/

namespace Sys2Proof.Machine

/-- The completion signal is released (R40): setting a set latch has no further effect. -/
def State.release (s : State) : State := { s with latch := true }

/-- The Manager Task consumes the signal (R180). -/
def State.consume (s : State) : State := { s with latch := false }

/-- "toggle output polarity" (R160). -/
def State.toggleTrack (s : State) : State := s.setEng { s.eng with track := !s.eng.track }

/-- A new bit starts (R160): two half-bits of `H(bitval)` counts each. -/
def State.startBit (s : State) : State := s.setEng { s.eng with half := 2, cmp := halfBitTicks s.cfg s.eng.bitval }

/-- Closing a buffer that waits in `LOAD` releases the signal, so that the Manager Task looks at it again (R148, R150). -/
def State.releaseIfLoad (s : State) (st : BufState) : State := if st = .load then s.release else s

end Sys2Proof.Machine
end

