-- ==== Sys2Proof/Machine/Operands.lean ====
section
/-! DEFINITION. Operand checks of the host commands (R62, R140, R151) and the result frames they answer (R92 to R104). -/

namespace Sys2Proof.Machine

/-- Status codes (R10, R210). -/
def Status.code : Status → Byte
  | .ok => 0
  | .noBuffer => 1
  | .noPending => 2
  | .overflow => 3
  | .badArg => 4
  | .badHandle => 5
  | .badOpcode => 6
  | .endOfScan => 7

/-- The address is in the range its polarity has (R7, R140): mobile 0..16383, accessory 0..511. -/
def addressInRange (pol : Polarity) (addr : Word) : Bool :=
  match pol with
  | .mobile => addr.toNat ≤ 16383
  | .accessory => addr.toNat ≤ 511

/-- A host handle is accepted only in 1..`NUM_BUFFERS`-1 and only while its buffer is open (R62). -/
def State.acceptsHandle (s : State) (h : Nat) : Bool :=
  1 ≤ h && h ≤ s.cfg.numBuffers - 1 &&
  match s.bufs[h]? with
  | some b => b.isOpen
  | none => false

/-- The handle field of a result frame (R92): `0xFF` when there is no handle. -/
def handleByte (h : Option Nat) : Byte :=
  match h with
  | some h => BitVec.ofNat 8 h
  | none => 0xFF

/-- The result of the step: a status and the opcode's result bytes after it (R92). -/
def State.answer (s : State) (st : Status) (rest : List Byte) : State := { s with result := st.code :: rest }

/-- A command answered with a status and, for ACQUIRE and SUBMIT, a handle: what the pool commands hand to one another (R190). -/
structure Reply where
  status : Status
  handle : Option Nat
  state  : State
  deriving DecidableEq, Repr

/-- A class (a) failure (R211): one `Diag` event and nothing else. -/
def State.exhausted (s : State) (st : Status) : Reply := { status := st, handle := none, state := s.emit (.diag st) }

/-- A class (b) failure (R212): no event, and nothing changes. -/
def State.rejected (s : State) (st : Status) : Reply := { status := st, handle := none, state := s }

/-- The result frame of a command whose result is a status alone (R96 to R98). -/
def Reply.statusOnly (r : Reply) : State := r.state.answer r.status []

/-- The result frame of a command whose result is a status and a handle (R95, R99). -/
def Reply.withHandle (r : Reply) : State := r.state.answer r.status [handleByte r.handle]

end Sys2Proof.Machine
end

