-- ==== Sys2Proof/Machine/PoolCommands.lean ====
section
/-! DEFINITION. The Transmission Buffer Pool's host commands: ACQUIRE, EXTEND, COMPLETE, CANCEL (R140 to R151). -/

namespace Sys2Proof.Machine

/-- The identity of a buffer is `(addr, pol)`; the action word is no part of it (R142). -/
def sameTarget (b : Buffer) (addr : Word) (pol : Polarity) : Bool := b.addr == addr && b.pol == pol

/-- The first buffer of the list that is live and has the identity (R141). -/
def State.findLiveIn (s : State) (addr : Word) (pol : Polarity) : List Nat → Attempt (Option Nat)
  | [] => .ok none
  | h :: rest => do
    let b ← s.buf h
    expectLive b
    if sameTarget b addr pol then return some h else s.findLiveIn addr pol rest

/-- FIND_LIVE (R141). -/
def State.findLive (s : State) (addr : Word) (pol : Polarity) : Attempt (Option Nat) := do
  let ring ← s.ringOrder
  s.findLiveIn addr pol ring

/-- ACQUIRE's overwrite path (R140): the live buffer goes on radiating what it was radiating. -/
def State.reuse (s : State) (h : Nat) (action : Word) : Attempt Reply := do
  let t ← s.releaseQueue h
  return { status := .ok, handle := some h,
           state := t.updBuf h fun b => { b with replyWhen := .never, action := action, isOpen := true } }

/-- ACQUIRE's new-buffer path (R140). -/
def State.allocate (s : State) (pol : Polarity) (addr action : Word) : Attempt Reply :=
  if s.pool.freeHead = none then return s.exhausted .noBuffer
  else do
    let (h, t) ← s.popFree
    return { status := .ok, handle := some h,
             state := t.updBuf h fun b =>
               { b with state := .load, addr := addr, pol := pol, action := action, repeatCount := 0, phead := none,
                        ptail := none, replyWhen := .never, replyToken := 0, linked := false, isOpen := true } }

/-- The live buffer an overwrite returns (R140); without overwrite there is none. -/
def State.overwriteTarget (s : State) (addr : Word) (pol : Polarity) (ow : Bool) : Attempt (Option Nat) :=
  if ow then s.findLive addr pol else return none

/-- ACQUIRE of parsed operands (R140). -/
def State.acquire (s : State) (pol : Polarity) (addr action : Word) (ow : Bool) : Attempt Reply :=
  if !addressInRange pol addr then return s.rejected .badArg
  else do
    let live ← s.overwriteTarget addr pol ow
    match live with
    | some h => s.reuse h action
    | none => s.allocate pol addr action

/-- ACQUIRE (R140): its body. -/
def acquireBody (a : Args AcquireArgs) (s : State) : Attempt State :=
  match a with
  | .malformed _ => return (s.rejected .badArg).withHandle
  | .ok a => do
    let r ← s.acquire a.pol a.addr a.action a.ow
    return r.withHandle

/-- ACQUIRE (R140). -/
def execAcquire (a : Args AcquireArgs) (s : State) : Host.Outcome State Fault Refusal := runStep s (acquireBody a)

/-- The link that leads to the tail of buffer `h`'s queue `b` now leads to record `p` (R143): `phead` of an empty queue, else the old
tail's `next`. -/
def State.linkTail (s : State) (h p : Nat) (b : Buffer) : Attempt State :=
  if b.phead = none then return s.updBuf h fun b => { b with phead := some p }
  else do
    let q ← handleOf b.ptail
    let _ ← s.pkt q
    return s.updPkt q fun k => { k with next := some p }

/-- Record `p` goes to the tail of buffer `h`'s queue (R143). -/
def State.enqueue (s : State) (h p : Nat) : Attempt State := do
  let b ← s.buf h
  let t ← s.linkTail h p b
  return t.updBuf h fun b => { b with ptail := some p }

/-- EXTEND's state effect (R144): `RUN` becomes `RELOAD`, and every other state is unchanged (D35), but a reserved code is `F_BAD_STATE`
(R22, R215, I7). -/
def extendedState : BufState → Attempt BufState
  | .run => .ok .reload
  | .reload => .ok .reload
  | .load => .ok .load
  | .empty => .ok .empty
  | .fixed => .ok .fixed
  | _ => raise .badState

/-- EXTEND of parsed operands (R143). -/
def State.extend (s : State) (h : Nat) (a : ExtendArgs) : Attempt Reply :=
  if !s.acceptsHandle h then return s.rejected .badHandle
  else
    match encodePacket s.cfg a.d a.pre.toNat a.post.toNat with
    | .badArg => return s.rejected .badArg
    | .overflow => return s.exhausted .overflow
    | .ok _ =>
      if s.pool.pfreeHead = none then return s.exhausted .noPending
      else do
        let (p, s) ← s.popPfree
        let s := s.updPkt p fun _ =>
          { pre := a.pre, post := a.post, dur := a.dur, len := BitVec.ofNat 8 a.d.length, bytes := a.d, next := none }
        let s ← s.enqueue h p
        let b ← s.buf h
        let st ← extendedState b.state
        return { status := .ok, handle := some h,
                 state := s.updBuf h fun b => { b with replyWhen := a.rw, replyToken := a.token, state := st } }

/-- EXTEND (R143): its body. -/
def extendBody (a : Args ExtendArgs) (s : State) : Attempt State :=
  match a with
  | .malformed _ => return (s.rejected .badArg).statusOnly
  | .ok a => do
    let r ← s.extend a.h.toNat a
    return r.statusOnly

/-- EXTEND (R143). -/
def execExtend (a : Args ExtendArgs) (s : State) : Host.Outcome State Fault Refusal := runStep s (extendBody a)

/-- COMPLETE_NEW (R147). An unlinked buffer that is not in `LOAD` is a broken invariant 3: `F_BAD_STATE` (R137, R138, log 10, log 22). -/
def State.completeNew (s : State) (h : Nat) : Attempt Reply := do
  let b ← s.buf h
  expectState (b.state == .load)
  if b.phead = none then
    return { status := .badArg, handle := none,
             state := (s.updBuf h fun b => { b with state := .empty, isOpen := false }).pushFree h }
  else
    let t ← s.loadHead h
    let t ← t.linkAfter t.eng.cursor h
    return { status := .ok, handle := some h, state := t.updBuf h fun b => { b with isOpen := false } }

/-- COMPLETE_REUSED (R148). -/
def State.completeReused (s : State) (h : Nat) : Attempt Reply := do
  let b ← s.buf h
  expectLive b
  return { status := .ok, handle := some h,
           state := (s.updBuf h fun b => { b with isOpen := false }).releaseIfLoad b.state }

/-- COMPLETE of a handle (R146). -/
def State.complete (s : State) (h : Nat) : Attempt Reply :=
  if !s.acceptsHandle h then return s.rejected .badHandle
  else do
    let b ← s.buf h
    if b.linked then s.completeReused h else s.completeNew h

/-- COMPLETE (R146): its body. -/
def completeBody (a : Args Byte) (s : State) : Attempt State :=
  match a with
  | .malformed _ => return (s.rejected .badArg).statusOnly
  | .ok h => do
    let r ← s.complete h.toNat
    return r.statusOnly

/-- COMPLETE (R146). -/
def execComplete (a : Args Byte) (s : State) : Host.Outcome State Fault Refusal := runStep s (completeBody a)

/-- CANCEL of a newly acquired buffer, its queue released (R149). One that is not in `LOAD` is `F_BAD_STATE` (R137, R138, log 10, log 22). -/
def State.cancelNew (s : State) (h : Nat) (b : Buffer) : Attempt State := do
  expectState (b.state == .load)
  return (s.updBuf h fun b => { b with state := .empty }).pushFree h

/-- CANCEL of a reused buffer, its queue released (R150). -/
def State.cancelReused (s : State) (b : Buffer) : Attempt State := do
  expectLive b
  return s.releaseIfLoad b.state

/-- CANCEL's end (R149): a new buffer goes back to the free list, a reused one stays on the ring. -/
def State.cancelEnd (s : State) (h : Nat) (b : Buffer) : Attempt State :=
  if b.linked then s.cancelReused b else s.cancelNew h b

/-- CANCEL of a handle (R149). -/
def State.cancel (s : State) (h : Nat) : Attempt Reply :=
  if !s.acceptsHandle h then return s.rejected .badHandle
  else do
    let t ← s.releaseQueue h
    let t := t.updBuf h fun b => { b with replyWhen := .never, isOpen := false }
    let b ← t.buf h
    let u ← t.cancelEnd h b
    return { status := .ok, handle := some h, state := u }

/-- CANCEL (R149): its body. -/
def cancelBody (a : Args Byte) (s : State) : Attempt State :=
  match a with
  | .malformed _ => return (s.rejected .badArg).statusOnly
  | .ok h => do
    let r ← s.cancel h.toNat
    return r.statusOnly

/-- CANCEL (R149). -/
def execCancel (a : Args Byte) (s : State) : Host.Outcome State Fault Refusal := runStep s (cancelBody a)

end Sys2Proof.Machine
end

