-- ==== Sys2Proof/Machine/Commands.lean ====
section
/-! DEFINITION. The public command interface: SUBMIT, the queries, the unassigned opcode (R190 to R197). -/

namespace Sys2Proof.Machine

/-- EXTEND's operands in SUBMIT's (R190), for the handle ACQUIRE returned. -/
def submitExtendArgs (a : SubmitArgs) (h : Nat) : ExtendArgs where
  h := BitVec.ofNat 8 h
  pre := a.pre
  post := a.post
  dur := a.dur
  rw := a.rw
  token := a.token
  d := a.d

/-- SUBMIT's EXTEND and COMPLETE of the buffer `h` its ACQUIRE returned in `t`; a failed EXTEND puts the state before the SUBMIT,
`s`, back, but keeps the `Diag` (R190, R191). -/
def State.submitInto (s : State) (a : SubmitArgs) (h : Nat) (t : State) : Attempt Reply := do
  let r ← t.extend h (submitExtendArgs a h)
  if r.status ≠ .ok then
    return { status := r.status, handle := none, state := s.setHistory r.state.history }
  else
    let c ← r.state.complete h
    return { status := .ok, handle := some h, state := c.state }

/-- SUBMIT of parsed operands (R190): all or nothing (R191). -/
def State.submit (s : State) (a : SubmitArgs) : Attempt Reply :=
  if !addressInRange a.pol a.addr then return s.rejected .badArg
  else
    match encodePacket s.cfg a.d a.pre.toNat a.post.toNat with
    | .badArg => return s.rejected .badArg
    | .overflow => return s.exhausted .overflow
    | .ok _ => do
      let r ← s.acquire a.pol a.addr a.action a.ow
      match r.handle with
      | some h => s.submitInto a h r.state
      | none => return { status := r.status, handle := none, state := r.state }

/-- SUBMIT (R190): its body. -/
def submitBody (a : Args SubmitArgs) (s : State) : Attempt State :=
  match a with
  | .malformed _ => return (s.rejected .badArg).withHandle
  | .ok a => do
    let r ← s.submit a
    return r.withHandle

/-- SUBMIT (R190). -/
def execSubmit (a : Args SubmitArgs) (s : State) : Host.Outcome State Fault Refusal := runStep s (submitBody a)

/-- The number of buffers on the free list from link `l` on, following `fnext` (R192), those of `seen` being counted already. A link outside the
handle space is `F_RING` (R62). A list that leads to handle 0 counts it like any other buffer (DESIGN CHOICE, log 9). Each buffer on the list counts once: in a list that never ends, one met again ends the count (log 9). -/
def State.freeFrom (s : State) : Nat → List Nat → Option Nat → Attempt Nat
  | _, seen, none => .ok seen.length
  | 0, seen, some h => do
    let _ ← s.buf h
    return seen.length
  | n + 1, seen, some h =>
    if h ∈ seen then .ok seen.length
    else do
      let b ← s.buf h
      s.freeFrom n (h :: seen) b.fnext

/-- FREE_BUFFERS (R192): its body. -/
def freeBuffersBody (a : Args Unit) (s : State) : Attempt State :=
  match a with
  | .malformed _ => return s.answer .badArg [0]
  | .ok _ => do
    let c ← s.freeFrom s.bufs.length [] s.pool.freeHead
    return s.answer .ok [BitVec.ofNat 8 c]

/-- FREE_BUFFERS (R192). -/
def execFreeBuffers (a : Args Unit) (s : State) : Host.Outcome State Fault Refusal := runStep s (freeBuffersBody a)

/-- PACKETS_SENT (R193): its body. -/
def packetsSentBody (a : Args Unit) (s : State) : Attempt State :=
  match a with
  | .malformed _ => return s.answer .badArg [0, 0]
  | .ok _ => return s.answer .ok [loByte s.packetsSent, hiByte s.packetsSent]

/-- PACKETS_SENT (R193). -/
def execPacketsSent (a : Args Unit) (s : State) : Host.Outcome State Fault Refusal := runStep s (packetsSentBody a)

/-- RESET_SCAN (R194): its body. -/
def resetScanBody (a : Args Unit) (s : State) : Attempt State :=
  match a with
  | .malformed _ => return s.answer .badArg []
  | .ok _ => return (s.setScanPos 0).answer .ok []

/-- RESET_SCAN (R194). -/
def execResetScan (a : Args Unit) (s : State) : Host.Outcome State Fault Refusal := runStep s (resetScanBody a)

/-- Of the given handles, those whose buffer is live (R195): a buffer in any other state on the ring is a broken invariant (R44.3). -/
def State.liveIn (s : State) : List Nat → Attempt (List Nat)
  | [] => .ok []
  | h :: rest => do
    let b ← s.buf h
    expectLive b
    let l ← s.liveIn rest
    return h :: l

/-- SCAN_NEXT's result for a buffer (R103). -/
def scanBytes (b : Buffer) : List Byte := [b.pol.code, loByte b.addr, hiByte b.addr, loByte b.action, hiByte b.action]

/-- SCAN_NEXT of a frame of the right length (R195). -/
def State.scanNext (s : State) : Attempt State := do
  let ring ← s.ringOrder
  let live ← s.liveIn ring
  match live[s.scanPos.toNat]? with
  | none => return s.answer .endOfScan [0, 0, 0, 0, 0]
  | some h =>
    let b ← s.buf h
    return (s.setScanPos (s.scanPos + 1)).answer .ok (scanBytes b)

/-- SCAN_NEXT (R195): its body. -/
def scanNextBody (a : Args Unit) (s : State) : Attempt State :=
  match a with
  | .malformed _ => return s.answer .badArg [0, 0, 0, 0, 0]
  | .ok _ => s.scanNext

/-- SCAN_NEXT (R195). -/
def execScanNext (a : Args Unit) (s : State) : Host.Outcome State Fault Refusal := runStep s (scanNextBody a)

/-- An unassigned opcode (R196). -/
def execBadOpcode (_frame : List Byte) (s : State) : Host.Outcome State Fault Refusal :=
  runStep s fun t => return t.answer .badOpcode []

end Sys2Proof.Machine
end

