-- ==== Sys2Proof/Machine/Manager.lean ====
section
/-! DEFINITION. The Manager Task: MGR_INVOKE (R180 to R184). -/

namespace Sys2Proof.Machine

/-- SERVICE's free path (R182): the buffer's queue is empty. -/
def State.retire (s : State) (h : Nat) : Attempt State := do
  let b ← s.buf h
  let s ← s.unlink h
  let s := (s.updBuf h fun b => { b with state := .empty }).pushFree h
  let s := if b.replyWhen = .atEnd then s.emit (.reply b.replyToken) else s
  return s.updBuf h fun b => { b with replyWhen := .never }

/-- SERVICE (R182). -/
def State.service (s : State) (h : Nat) : Attempt State := do
  let b ← s.buf h
  if b.phead ≠ none then s.loadHead h else s.retire h

/-- What MGR_INVOKE does with the buffer it meets (R180): a closed buffer in `LOAD` is serviced, an open one is skipped (R183). -/
def State.attend (s : State) (h : Nat) (b : Buffer) : Attempt State :=
  if b.state = .load ∧ b.isOpen = false then s.service h else return s

/-- The walk of MGR_INVOKE (R180) from link `l`: `next` is captured before the buffer may be unlinked. A ring that does not close within the given number of buffers is broken: `F_RING` (R44.1, log 9). -/
def drainFrom : Nat → Option Nat → State → Attempt State
  | 0, l, s => if l = some 0 then .ok s else raise .ring
  | n + 1, l, s =>
    if l = some 0 then .ok s
    else do
      let h ← handleOf l
      let b ← s.buf h
      expectLive b
      let t ← s.attend h b
      drainFrom n b.next t

/-- MGR_INVOKE's body (R180). -/
def managerBody (s : State) : Attempt State := do
  let s := s.consume
  let b ← s.buf 0
  drainFrom (s.cfg.numBuffers - 1) b.next s

/-- MGR_INVOKE (R180): enabled exactly while `latch` = 1 and `halted` = 0 (R181). -/
def execMgrInvoke (s : State) : Host.Outcome State Fault Refusal :=
  if s.halted = false ∧ s.latch = false then .refused .managerNotEnabled else runStep s managerBody

end Sys2Proof.Machine
end

