-- ==== Sys2Proof/Machine/Timing.lean ====
section
/-! DEFINITION. The Timing Engine: TICK (R160 to R165). -/

namespace Sys2Proof.Machine

/-- END_OF_ARRAY (R162). -/
def State.endOfArray (s : State) (h : Nat) : Attempt State := do
  let b ← s.buf h
  match b.state with
  | .fixed => return s
  | .run =>
    if b.repeatCount = 0 then return s
    else if b.repeatCount - 1 = 0 then
      return (s.updBuf h fun b => { b with repeatCount := 0, state := .load }).release
    else return s.updBuf h fun b => { b with repeatCount := b.repeatCount - 1 }
  | .reload => return (s.updBuf h fun b => { b with state := .load }).release
  | _ => raise .badState

/-- The loop of NEXT_RADIABLE (R163) from link `l`. An `EMPTY` buffer there is `F_RING` (I17), and a reserved state code is
`F_BAD_STATE` (R22, R215, I7), where the pseudocode of R163 has one code for both (log 11). -/
def State.radiableFrom (s : State) : Nat → Option Nat → Attempt Nat
  | 0, _ => raise .ring
  | n + 1, l => do
    let h ← handleOf l
    let b ← s.buf h
    match b.state with
    | .fixed => return h
    | .run => return h
    | .reload => return h
    | .load => s.radiableFrom n b.next
    | .empty => raise .ring
    | _ => raise .badState

/-- NEXT_RADIABLE (R163). -/
def State.nextRadiable (s : State) (h : Nat) : Attempt Nat := do
  let b ← s.buf h
  s.radiableFrom s.cfg.numBuffers b.next

/-- A read of `buf[h].arr[i]`, and the state after its free value, if it took one, is read. An entry of an array never written is a model
fault (R31, I13); an entry after those written holds no value (I14) and reads as a free one of `RUN_WIDTH` bits (R26, log 7). -/
def State.entry (s : State) (h i : Nat) : Attempt (Nat × State) := do
  let b ← s.buf h
  match b.arr[i]? with
  | some e => return (e, s)
  | none =>
    if b.arr = [] then .error (.model .unwrittenEntry)
    else return (Config.absentEntry s.openCount % 2 ^ s.cfg.runWidth, s.countOpen 1)

/-- The move from a terminator to bit 0 of the next radiable buffer (R161, R165). -/
def State.endTraversal (s : State) : Attempt State := do
  let t ← s.endOfArray s.eng.cursor
  let t := t.setPacketsSent (t.packetsSent + 1)
  let n ← t.nextRadiable t.eng.cursor
  let (e, t) ← t.entry n 0
  if e = 0 then raise .emptyArray
  else return t.setEng { t.eng with cursor := n, idx := 0, left := e - 1, bitval := true }

/-- NEXT_BIT (R161). -/
def State.nextBit (s : State) : Attempt State :=
  if 0 < s.eng.left then return s.setEng { s.eng with left := s.eng.left - 1 }
  else if s.cfg.maxTransitions ≤ s.eng.idx + 1 then raise .index
  else do
    let i := s.eng.idx + 1
    let (e, s) ← s.entry s.eng.cursor i
    if e ≠ 0 then return s.setEng { s.eng with idx := i, left := e - 1, bitval := entryBit i }
    else (s.setEng { s.eng with idx := i }).endTraversal

/-- `eng.half` - 1 (R160), and the state after its free value, if it took one, is read. Below 0 the countdown has no value, and none is stated:
a free value (log 12). -/
def State.countdown (s : State) : Fin 3 × State :=
  match s.eng.half with
  | 0 => (Config.halfBelowZero s.openCount, s.countOpen 1)
  | 1 => (0, s)
  | 2 => (1, s)

/-- TICK after its toggle, the countdown having come to `n` (R160): at 0 the next bit starts. -/
def State.afterCountdown (s : State) (n : Fin 3) : Attempt State :=
  if n = 0 then do
    let t ← s.nextBit
    return t.startBit
  else return s.setEng { s.eng with half := n }

/-- TICK's body (R160). -/
def tickBody (s : State) : Attempt State :=
  let (n, t) := s.toggleTrack.countdown
  t.afterCountdown n

/-- TICK (R160). -/
def execTick (s : State) : Host.Outcome State Fault Refusal := runStep s tickBody

end Sys2Proof.Machine
end

