-- ==== Sys2Proof/Machine/Dispatch.lean ====
section
/-! DEFINITION. The meaning of each step: one arm per constructor of `Instr`. -/

namespace Sys2Proof.Machine

def exec (i : Instr) (s : State) : Host.Outcome State Fault Refusal :=
  match i with
  | .acquire a => Sys2Proof.Machine.execAcquire a s
  | .extend a => Sys2Proof.Machine.execExtend a s
  | .complete a => Sys2Proof.Machine.execComplete a s
  | .cancel a => Sys2Proof.Machine.execCancel a s
  | .submit a => Sys2Proof.Machine.execSubmit a s
  | .freeBuffers a => Sys2Proof.Machine.execFreeBuffers a s
  | .packetsSent a => Sys2Proof.Machine.execPacketsSent a s
  | .resetScan a => Sys2Proof.Machine.execResetScan a s
  | .scanNext a => Sys2Proof.Machine.execScanNext a s
  | .tick => Sys2Proof.Machine.execTick s
  | .mgrInvoke => Sys2Proof.Machine.execMgrInvoke s
  | .badOpcode frame => Sys2Proof.Machine.execBadOpcode frame s

end Sys2Proof.Machine
end

