-- ==== Sys2Proof/Machine/Fetch.lean ====
section
/-! DEFINITION. Which input the block takes next (R5, R220), and how a label is placed so that it is that input. -/

namespace Sys2Proof.Machine

/-- What the block takes next: a step to run in a state that no longer holds its label, the reset event, or a label that is no
step. -/
inductive Fetched
  | run (i : Instr) (s : State)
  | resetTo (s : State)
  | reject (why : Reject)
  deriving DecidableEq, Repr

/-- The inputs still to come after one is taken. -/
def State.setAgenda (s : State) (l : List Input) : State := { s with agenda := l }

/-- One more order was left to `Config.managerFirst`. -/
def State.countChoice (s : State) : State := { s with schedCount := s.schedCount + 1 }

/-- With nothing presented from outside, an agent that needs no input steps (R252): the timer, whose match always comes, or the
Manager Task while the latch is set. Where both are enabled the order is a free value (R220, log 1). -/
def fetchIdle (s : State) : Fetched :=
  if s.latch then
    if Config.managerFirst s.schedCount then .run .mgrInvoke s.countChoice else .run .tick s.countChoice
  else .run .tick s

/-- The next input: the first of the agenda (log 1). -/
def fetch (s : State) : Fetched :=
  match s.agenda with
  | [] => fetchIdle s
  | .reset :: rest => .resetTo (s.setAgenda rest).resetEvent
  | .step l :: rest =>
    match decode l with
    | .ok i => .run i (s.setAgenda rest)
    | .error why => .reject why

/-- A configuration that describes no hardware has no steps: it is refused (R6, R11, R236). -/
def whenConfigured (s : State) (o : Host.Outcome State Fault Refusal) : Host.Outcome State Fault Refusal :=
  if configValid s.cfg then o else .refused .configurationRefused

/-- The state in which the block's next input is the label `l`. The scheduler runs the Manager Task only on a set latch (R181), so
for MGR_INVOKE the latch is set too (log 2). -/
def State.present (s : State) (l : StepLabel) : State :=
  { s with agenda := .step l :: s.agenda, latch := s.latch || decide (sourceOf l.word = 2) }

end Sys2Proof.Machine
end

