-- ==== Sys2Proof/Machine/Step.lean ====
section
/-! DEFINITION. One step of the block (R11). -/

namespace Sys2Proof.Machine

/-- One step: the next input is taken; an ill-formed configuration is refused (R6, R11). -/
def step (s : State) : Host.Outcome State Fault Refusal :=
  match fetch s with
  | .run i t => whenConfigured s (exec i t)
  | .resetTo t => whenConfigured s (.next t)
  | .reject why => .refused (.noSuchStep why)

/-- `s` with the instruction whose step word is `w` as the next input. -/
def State.withFetchWord (s : State) (nbits w : Nat) : State := s.present (tableLabel nbits w)

end Sys2Proof.Machine
end

