-- ==== Sys2Proof/Safety.lean ====
section
/-! DEFINITION. What counts as a sound state of the block: the invariants of R44, each under a name of its own, in the terms the
statements use. -/

namespace Sys2Proof.Machine

/-- The states whose array the Timing Engine may play (R163, R246). -/
def BufState.radiable : BufState → Bool
  | .fixed => true
  | .run => true
  | .reload => true
  | _ => false

/-- The states of a live buffer (R10). -/
def BufState.live : BufState → Bool
  | .load => true
  | .run => true
  | .reload => true
  | _ => false

/-- A list read off a chain of links: from link `l`, following `nxt`, exactly the handles of the list are met and then the link
`stop`. -/
def Chain (nxt : Nat → Option Nat) (stop : Option Nat) : Option Nat → List Nat → Prop
  | l, [] => l = stop
  | l, h :: rest => l = some h ∧ Chain nxt stop (nxt h) rest

/-- `buf[h].next` as a link, `NIL` outside the handle space. -/
def State.nextOf (s : State) (h : Nat) : Option Nat := s.bufs[h]?.bind (·.next)

/-- `buf[h].fnext` as a link, `NIL` outside the handle space. -/
def State.fnextOf (s : State) (h : Nat) : Option Nat := s.bufs[h]?.bind (·.fnext)

/-- `pkt[p].next` as a link, `NIL` outside the handle space. -/
def State.pnextOf (s : State) (p : Nat) : Option Nat := s.pkts[p]?.bind (·.next)

/-- The fixed buffer is permanently present (R21, R22, R30, R45): handle 0 is `FIXED`, linked, closed, without a queue, and its
array is the idle packet's. -/
def FixedBufferSound (s : State) : Prop :=
  ∃ b, s.bufs[0]? = some b ∧ b.state = .fixed ∧ b.linked = true ∧ b.isOpen = false ∧ b.phead = none ∧
    b.arr = (idleEncoded s.cfg).array

/-- Invariant 4 of R44: a buffer in `FIXED`, `RUN` or `RELOAD` has a well-formed array, of entries that fit their width. -/
def ArraysSound (s : State) : Prop :=
  ∀ (h : Nat) (b : Buffer), s.bufs[h]? = some b → b.state.radiable = true →
    arrayWellFormed s.cfg b.arr = true ∧ ∀ e ∈ b.arr, e ≤ s.cfg.runMax

/-- The state half of invariant 5 of R44: the buffer being played is in `FIXED`, `RUN` or `RELOAD`. -/
def CursorRadiable (s : State) : Prop :=
  ∃ b, s.bufs[s.eng.cursor]? = some b ∧ b.state.radiable = true

/-- The engine registers agree with one another (R38, R39, R160, R164): the countdown is 1 or 2 and the output is low exactly in the
first half of a bit, the bit value is the parity of the entry, and the compare interval is the bit's. -/
def EngineSound (s : State) : Prop :=
  s.eng.half ≠ 0 ∧ s.eng.track = decide (s.eng.half = 1) ∧ s.eng.bitval = entryBit s.eng.idx ∧
    s.eng.cmp = halfBitTicks s.cfg s.eng.bitval

/-- The engine's read position lies in the array being played (R35, R36): its entry is there and more than `left` bits long. -/
def PositionSound (s : State) : Prop :=
  ∃ b e, s.bufs[s.eng.cursor]? = some b ∧ b.arr[s.eng.idx]? = some e ∧ s.eng.left < e ∧
    (∀ j < s.eng.idx, b.arr[j]? ≠ some 0)

/-- Invariant 1 of R44 with R29 and R30: following `next` from buffer 0 meets every linked buffer once and comes back to it; `prev`
names the buffer before; an unlinked buffer has no links. -/
def RingSound (s : State) : Prop :=
  ∃ ring : List Nat, Chain s.nextOf (some 0) (s.nextOf 0) ring ∧ (0 :: ring).Nodup ∧
    ∀ (h : Nat) (b : Buffer), s.bufs[h]? = some b →
      (b.linked = true ↔ h ∈ 0 :: ring) ∧
      (b.linked = true → ∃ n c, b.next = some n ∧ s.bufs[n]? = some c ∧ c.prev = some h) ∧
      (b.linked = false → b.next = none ∧ b.prev = none)

/-- The list half of invariant 2 of R44: the free list holds exactly the `EMPTY` buffers, each once. -/
def FreeListSound (s : State) : Prop :=
  ∃ free : List Nat, Chain s.fnextOf none s.pool.freeHead free ∧ free.Nodup ∧ (∀ h ∈ free, h < s.bufs.length) ∧
    ∀ (h : Nat) (b : Buffer), s.bufs[h]? = some b → (h ∈ free ↔ b.state = .empty)

/-- Invariants 2 and 3 of R44 for a pool buffer: an `EMPTY` one owns nothing, is unlinked and closed; a linked one is live; any
other is in `LOAD` under construction. -/
def PoolBufferSound (b : Buffer) : Prop :=
  (b.state = .empty ∧ b.linked = false ∧ b.isOpen = false ∧ b.phead = none) ∨
  (b.state.live = true ∧ b.linked = true) ∨
  (b.state = .load ∧ b.linked = false ∧ b.isOpen = true)

/-- A queued record can be encoded: EXTEND accepted it (R143), so that LOAD_HEAD cannot fail (R136). -/
def PacketSound (c : Config) (k : Packet) : Prop :=
  k.bytes.length = k.len.toNat ∧ (encodePacket c k.bytes k.pre.toNat k.post.toNat).isOk = true

/-- Invariant 6 of R44 for pending records, with R27: every record has one owner, the pending free list or one buffer's queue; each
list is read off its links and holds each of its records once; `ptail` names a queue's last record; queued records encode. -/
def PendingSound (s : State) : Prop :=
  ∃ (owner : Nat → Option Nat) (free : List Nat) (queue : Nat → List Nat),
    Chain s.pnextOf none s.pool.pfreeHead free ∧ free.Nodup ∧
    (∀ p, p ∈ free ↔ p < s.pkts.length ∧ owner p = none) ∧
    (∀ p h, owner p = some h → h < s.bufs.length) ∧
    ∀ (h : Nat) (b : Buffer), s.bufs[h]? = some b →
      Chain s.pnextOf none b.phead (queue h) ∧ (queue h).Nodup ∧ b.ptail = (queue h).getLast? ∧
      (∀ p, p ∈ queue h ↔ p < s.pkts.length ∧ owner p = some h) ∧
      (∀ (p : Nat) (k : Packet), p ∈ queue h → s.pkts[p]? = some k → PacketSound s.cfg k)

/-- The invariants 1 to 6 of R44, all together, with the bound of R195 on the scan position. Invariant 7 holds only for identities acquired
in one way and is no part of it: `AtMostOneLive`. -/
structure Sound (s : State) : Prop where
  configuration : configValid s.cfg = true
  arenas : Memory.wf s = true
  running : s.halted = false
  noFatal : s.fatalCode = 0
  fixedBuffer : FixedBufferSound s
  arrays : ArraysSound s
  cursor : CursorRadiable s
  engine : EngineSound s
  position : PositionSound s
  ring : RingSound s
  freeList : FreeListSound s
  poolBuffers : ∀ (h : Nat) (b : Buffer), s.bufs[h]? = some b → h ≠ 0 → PoolBufferSound b
  pending : PendingSound s
  scan : s.scanPos.toNat ≤ s.cfg.numBuffers - 1

/-- The buffer is the identity's, live or under construction (R10, R141). -/
def Targets (b : Buffer) (addr : Word) (pol : Polarity) : Prop := b.state.live = true ∧ b.addr = addr ∧ b.pol = pol

/-- Invariant 7 of R44: at most one live buffer has the identity. -/
def AtMostOneLive (s : State) (addr : Word) (pol : Polarity) : Prop :=
  ∀ (h g : Nat) (b c : Buffer), s.bufs[h]? = some b → s.bufs[g]? = some c → b.linked = true → c.linked = true →
    Targets b addr pol → Targets c addr pol → h = g

/-- What makes invariant 7 inductive: at most one buffer, live or under construction, has the identity. -/
def OneBufferFor (s : State) (addr : Word) (pol : Polarity) : Prop :=
  ∀ (h g : Nat) (b c : Buffer), s.bufs[h]? = some b → s.bufs[g]? = some c → Targets b addr pol → Targets c addr pol → h = g

/-- A buffer of the identity is under construction: no ACQUIRE finds it (R141). -/
def UnderConstruction (s : State) (addr : Word) (pol : Polarity) : Prop :=
  ∃ (h : Nat) (b : Buffer), s.bufs[h]? = some b ∧ b.linked = false ∧ Targets b addr pol

/-- The steps that may give an identity a second buffer (R44, R141): an ACQUIRE or SUBMIT of it without overwrite, or while a buffer of it
is under construction. -/
def opensAnother (i : Instr) (s : State) (addr : Word) (pol : Polarity) : Prop :=
  match i with
  | .acquire (.ok a) => a.addr = addr ∧ a.pol = pol ∧ (a.ow = false ∨ UnderConstruction s addr pol)
  | .submit (.ok a) => a.addr = addr ∧ a.pol = pol ∧ (a.ow = false ∨ UnderConstruction s addr pol)
  | _ => False

/-- The bits the engine still has to play in its array after the current one (R35, R82). -/
def State.bitsAhead (s : State) : Option (List Bool) :=
  match s.bufs[s.eng.cursor]? with
  | some b =>
    some (List.replicate s.eng.left s.eng.bitval ++ bitsFrom (entryBit (s.eng.idx + 1)) (b.arr.drop (s.eng.idx + 1)))
  | none => none

/-- The state transitions of R137 and the steps that may make them; SUBMIT is ACQUIRE, EXTEND and COMPLETE in one step (R190). -/
def transitionAllowed (i : Instr) (a b : BufState) : Bool :=
  match i, a, b with
  | .acquire _, .empty, .load => true
  | .extend _, .run, .reload => true
  | .complete _, .load, .run => true
  | .complete _, .load, .empty => true
  | .cancel _, .load, .empty => true
  | .submit _, .empty, .run => true
  | .submit _, .run, .reload => true
  | .submit _, .load, .run => true
  | .tick, .run, .load => true
  | .tick, .reload, .load => true
  | .mgrInvoke, .load, .run => true
  | .mgrInvoke, .load, .empty => true
  | _, _, _ => false

/-- The ring (R135): following `next` from buffer 0 meets these buffers, all live, and comes back to buffer 0. -/
def RingIs (s : State) (ring : List Nat) : Prop :=
  Chain s.nextOf (some 0) (s.nextOf 0) ring ∧ 0 ∉ ring ∧ ring.length ≤ s.cfg.numBuffers - 1 ∧
    ∀ h ∈ ring, ∃ b, s.bufs[h]? = some b ∧ b.state.live = true

/-- A list of pending records read off its links from `l` (R27, R131): each record once, all in the handle space. -/
def PendingListIs (s : State) (l : Option Nat) (q : List Nat) : Prop :=
  Chain s.pnextOf none l q ∧ q.Nodup ∧ (∀ p ∈ q, p < s.pkts.length) ∧ q.length ≤ s.cfg.numPending

/-- A buffer after one traversal of its array (R162). -/
def afterTraversal (b : Buffer) : Buffer :=
  match b.state with
  | .run =>
    if b.repeatCount = 0 then b
    else { b with repeatCount := b.repeatCount - 1, state := if b.repeatCount = 1 then .load else .run }
  | .reload => { b with state := .load }
  | _ => b

/-- The buffers MGR_INVOKE services (R180, R183). -/
def Buffer.serviceable (b : Buffer) : Bool := b.linked && b.state == .load && !b.isOpen

/-- Servicing buffer `h` retires it (R182): its queue is empty. -/
def State.retires (s : State) (h : Nat) : Bool :=
  match s.bufs[h]? with
  | some b => b.serviceable && b.phead.isNone
  | none => false

/-- The pending record that servicing buffer `h` loads and frees (R136, R182): the head of its queue. -/
def State.loadedRecord (s : State) (h : Nat) : Option Nat :=
  match s.bufs[h]? with
  | some b => if b.serviceable then b.phead else none
  | none => none

/-- The reply that servicing buffer `h` emits (R136, R182). -/
def State.serviceReply (s : State) (h : Nat) : Option Event :=
  match s.bufs[h]? with
  | some b =>
    if b.serviceable then
      match b.phead with
      | none => if b.replyWhen = .atEnd then some (.reply b.replyToken) else none
      | some p => if s.pnextOf p = none ∧ b.replyWhen = .atStart then some (.reply b.replyToken) else none
    else none
  | none => none

/-- `k` consecutive TICK steps with no other step between (R108), when none of them stops or halts the block. -/
def runTicks : Nat → State → Option State
  | 0, s => some s
  | k + 1, s =>
    match exec .tick s with
    | .next t => if t.halted then none else runTicks k t
    | _ => none

/-- The result length of R94 and R104: 0 for a step that is no host command. -/
def resultLength : Instr → Nat
  | .acquire _ => 2
  | .extend _ => 1
  | .complete _ => 1
  | .cancel _ => 1
  | .submit _ => 2
  | .freeBuffers _ => 2
  | .packetsSent _ => 3
  | .resetScan _ => 1
  | .scanNext _ => 6
  | .tick => 0
  | .mgrInvoke => 0
  | .badOpcode _ => 1

/-- Class (a) failures (R211). -/
def Status.classA : Status → Bool
  | .noBuffer => true
  | .noPending => true
  | .overflow => true
  | _ => false

/-- Class (b) failures (R212). -/
def Status.classB : Status → Bool
  | .badArg => true
  | .badHandle => true
  | .badOpcode => true
  | _ => false

/-- The register groups of the access table (R46), less `halted`. -/
inductive Group
  | bufState | identity | action | repeatCount | array | queue | reply | links | isOpen | freeLists | packets | engine
  | latch | packetsSent | scanPos | history
  deriving DecidableEq, Repr

/-- Two states agree on a register group. -/
def Group.same (s t : State) : Group → Prop
  | .bufState => s.bufs.map (·.state) = t.bufs.map (·.state)
  | .identity => s.bufs.map (fun b => (b.addr, b.pol)) = t.bufs.map (fun b => (b.addr, b.pol))
  | .action => s.bufs.map (·.action) = t.bufs.map (·.action)
  | .repeatCount => s.bufs.map (·.repeatCount) = t.bufs.map (·.repeatCount)
  | .array => s.bufs.map (·.arr) = t.bufs.map (·.arr)
  | .queue => s.bufs.map (fun b => (b.phead, b.ptail)) = t.bufs.map (fun b => (b.phead, b.ptail))
  | .reply => s.bufs.map (fun b => (b.replyWhen, b.replyToken)) = t.bufs.map (fun b => (b.replyWhen, b.replyToken))
  | .links => s.bufs.map (fun b => (b.next, b.prev, b.linked)) = t.bufs.map (fun b => (b.next, b.prev, b.linked))
  | .isOpen => s.bufs.map (·.isOpen) = t.bufs.map (·.isOpen)
  | .freeLists => s.bufs.map (·.fnext) = t.bufs.map (·.fnext) ∧ s.pool = t.pool
  | .packets => s.pkts = t.pkts
  | .engine => s.eng = t.eng
  | .latch => s.latch = t.latch
  | .packetsSent => s.packetsSent = t.packetsSent
  | .scanPos => s.scanPos = t.scanPos
  | .history => s.history = t.history

/-- The register groups a step writes (R46), a fatal fault apart. -/
def writes : Instr → List Group
  | .tick => [.bufState, .repeatCount, .engine, .latch, .packetsSent, .history]
  | .mgrInvoke => [.bufState, .repeatCount, .array, .queue, .reply, .links, .freeLists, .packets, .latch, .history]
  | .acquire _ => [.bufState, .identity, .action, .repeatCount, .queue, .reply, .isOpen, .freeLists, .packets, .history]
  | .extend _ => [.bufState, .queue, .reply, .freeLists, .packets, .history]
  | .complete _ =>
    [.bufState, .repeatCount, .array, .queue, .reply, .links, .isOpen, .freeLists, .packets, .latch, .history]
  | .cancel _ => [.bufState, .queue, .reply, .isOpen, .freeLists, .packets, .latch]
  | .submit _ =>
    [.bufState, .identity, .action, .repeatCount, .array, .queue, .reply, .links, .isOpen, .freeLists, .packets, .latch,
      .history]
  | .resetScan _ => [.scanPos]
  | .scanNext _ => [.scanPos]
  | .freeBuffers _ => []
  | .packetsSent _ => []
  | .badOpcode _ => []

/-- `buf[h].prev` as a link, `NIL` outside the handle space. -/
def State.prevOf (s : State) (h : Nat) : Option Nat := s.bufs[h]?.bind (·.prev)

/-- Buffer `j` differs in its two ring links at most. -/
def SameButLinks (s t : State) (j : Nat) : Prop :=
  t.bufs[j]? = s.bufs[j]?.map fun b => { b with next := t.nextOf j, prev := t.prevOf j }

/-- What LINK_AFTER does to the other buffers (R133): `h` now stands between `c` and the buffer `n` that followed `c`. -/
def LinkedAfter (s t : State) (c n h : Nat) : Prop :=
  ∀ j, j ≠ h → SameButLinks s t j ∧ t.nextOf j = (if j = c then some h else s.nextOf j) ∧
    t.prevOf j = (if j = n then some h else s.prevOf j)

/-- The ring is exactly this list, in both directions (R29, R135): `next` from buffer 0 meets its buffers in order, `prev` in reverse. -/
def RingLinks (s : State) (ring : List Nat) : Prop :=
  Chain s.nextOf (some 0) (s.nextOf 0) ring ∧ Chain s.prevOf (some 0) (s.prevOf 0) ring.reverse

/-- What PUSH_FREE of each buffer of `q` in turn does to the free list (R130): they are on top of it, the last one pushed topmost. -/
def BuffersReleased (s t : State) (q : List Nat) : Prop :=
  ∀ free, Chain s.fnextOf none s.pool.freeHead free → (∀ h ∈ q, h ∉ free) →
    Chain t.fnextOf none t.pool.freeHead (q.reverse ++ free)

/-- What PUSH_PFREE of each record of `q` in turn does (R131), as RELEASE_QUEUE does for a queue (R132): they are on top of the pending free
list, the last one pushed topmost; no other record is written, and no field but `next`. -/
def QueueReleased (s t : State) (q : List Nat) : Prop :=
  (∀ p, p ∉ q → t.pkts[p]? = s.pkts[p]?) ∧
  (∀ (p : Nat) (k : Packet), s.pkts[p]? = some k → ∃ l, t.pkts[p]? = some { k with next := l }) ∧
  ∀ free, Chain s.pnextOf none s.pool.pfreeHead free → (∀ p ∈ q, p ∉ free) →
    Chain t.pnextOf none t.pool.pfreeHead (q.reverse ++ free)

/-- The address is one its polarity has (R7). -/
def InRange (pol : Polarity) (addr : Word) : Prop :=
  (pol = .mobile ∧ addr.toNat ≤ 16383) ∨ (pol = .accessory ∧ addr.toNat ≤ 511)

/-- A host handle the block accepts (R62), and the buffer it names. -/
def Accepts (s : State) (h : Nat) (b : Buffer) : Prop :=
  1 ≤ h ∧ h ≤ s.cfg.numBuffers - 1 ∧ s.bufs[h]? = some b ∧ b.isOpen = true

/-- No live buffer has the identity (R141). -/
def NoLiveTarget (s : State) (addr : Word) (pol : Polarity) : Prop :=
  ∃ ring, RingIs s ring ∧ ∀ h ∈ ring, ∀ b, s.bufs[h]? = some b → ¬ (b.addr = addr ∧ b.pol = pol)

/-- Buffer `h` is the first live buffer, in ring order, that has the identity (R141). -/
def FirstLiveTarget (s : State) (addr : Word) (pol : Polarity) (h : Nat) (b : Buffer) : Prop :=
  s.bufs[h]? = some b ∧ b.addr = addr ∧ b.pol = pol ∧
    ∃ before after, RingIs s (before ++ h :: after) ∧
      ∀ j ∈ before, ∀ c, s.bufs[j]? = some c → ¬ (c.addr = addr ∧ c.pol = pol)

end Sys2Proof.Machine
end

