-- ==== Sys2Proof/Certificates/Slice0/Obligations.lean ====
section
/-! DEFINITION. The statements about the block, one definition each, from the numbered rules of spec/. -/

open Sys2Proof Sys2Proof.Machine

/-! Labels and frames. -/

/-- The round trip of the encoding (R90 to R106): for every well-formed step, with every operand at every value its field admits,
decoding the label it is presented by gives the step back. -/
def Obligations.DecodeInvertsEncode : Prop :=
  ∀ i : Instr, i.wellFormed = true → decode (encode i) = .ok i

/-- The other direction (R91, R105, R106): a label that decodes has one meaning, a well-formed one, whose own label it is, so that
no bit of a word or frame is dropped. -/
def Obligations.EncodeInvertsDecode : Prop :=
  ∀ (l : StepLabel) (i : Instr), decode l = .ok i → i.wellFormed = true ∧ encode i = l

/-- Words and frames written out from the tables of R90 and R94 to R103, one for each row of the opcode table, decode to the steps they stand for;
SUBMIT's frame is the example of R107. -/
def Obligations.SpecFramesDecode : Prop :=
  decode { word := 0x001, frame := [0x01, 0x02, 0x03, 0x00, 0x40, 0x00] } =
      .ok (.acquire (.ok { pol := .mobile, ow := true, addr := 3, action := 0x0040 })) ∧
  decode { word := 0x002, frame := [0x02, 0x01, 0x0E, 0x01, 0x05, 0x02, 0x34, 0x12, 0x03, 0x03, 0x60, 0x63] } =
      .ok (.extend (.ok { h := 1, pre := 14, post := 1, dur := 5, rw := .atEnd, token := 0x1234, d := [0x03, 0x60, 0x63] })) ∧
  decode { word := 0x003, frame := [0x03, 0x07] } = .ok (.complete (.ok 7)) ∧
  decode { word := 0x004, frame := [0x04, 0x02] } = .ok (.cancel (.ok 2)) ∧
  decode { word := 0x005,
           frame := [0x05, 0x02, 0x03, 0x00, 0x40, 0x00, 0x0E, 0x01, 0x01, 0x02, 0x34, 0x12, 0x03, 0x03, 0x60, 0x63] } =
      .ok (.submit (.ok { pol := .mobile, ow := true, addr := 3, action := 0x0040, pre := 14, post := 1, dur := 1,
                          rw := .atEnd, token := 0x1234, d := [0x03, 0x60, 0x63] })) ∧
  decode { word := 0x006, frame := [0x06] } = .ok (.freeBuffers (.ok ())) ∧
  decode { word := 0x007, frame := [0x07] } = .ok (.packetsSent (.ok ())) ∧
  decode { word := 0x008, frame := [0x08] } = .ok (.resetScan (.ok ())) ∧
  decode { word := 0x009, frame := [0x09] } = .ok (.scanNext (.ok ())) ∧
  decode { word := 0x100, frame := [] } = .ok .tick ∧
  decode { word := 0x200, frame := [] } = .ok .mgrInvoke ∧
  decode { word := 0x00A, frame := [0x0A, 0x55] } = .ok (.badOpcode [0x0A, 0x55])

/-- Source 3, and sources 1 and 2 with an operation other than 0, are no steps: the model refuses them (R91, R105). -/
def Obligations.LabelsOutsideTheTableAreRefused : Prop :=
  ∀ (s : State) (l : StepLabel) (rest : List Input), s.agenda = .step l :: rest →
    (sourceOf l.word = 3 → step s = .refused (.noSuchStep .reservedSource)) ∧
    (sourceOf l.word = 1 ∨ sourceOf l.word = 2 → operationOf l.word ≠ 0 → step s = .refused (.noSuchStep .operationNotZero))

/-- A host command whose frame has a wrong length, a reserved flag bit set or reply code 3 answers `BAD_ARG` in a result frame of the
opcode's length, `0xFF` for a handle and 0 for the rest, and changes nothing (R104, R105, R212). -/
def Obligations.MalformedFramesAnswerBadArg : Prop :=
  ∀ (s : State) (t : List Byte), s.halted = false →
    exec (.acquire (.malformed t)) s = .next { s with result := [4, 0xFF] } ∧
    exec (.extend (.malformed t)) s = .next { s with result := [4] } ∧
    exec (.complete (.malformed t)) s = .next { s with result := [4] } ∧
    exec (.cancel (.malformed t)) s = .next { s with result := [4] } ∧
    exec (.submit (.malformed t)) s = .next { s with result := [4, 0xFF] } ∧
    exec (.freeBuffers (.malformed t)) s = .next { s with result := [4, 0] } ∧
    exec (.packetsSent (.malformed t)) s = .next { s with result := [4, 0, 0] } ∧
    exec (.resetScan (.malformed t)) s = .next { s with result := [4] } ∧
    exec (.scanNext (.malformed t)) s = .next { s with result := [4, 0, 0, 0, 0, 0] }

/-- Unassigned opcodes and the empty frame (R196): one byte, `BAD_OPCODE`, and nothing else changes, as a step of its own and as the
block's next input. -/
def Obligations.UnassignedOpcodeAnswersBadOpcode : Prop :=
  ∀ (s : State) (frame : List Byte) (rest : List Input), s.halted = false → configValid s.cfg = true →
    (∀ op t, frame = op :: t → op = 0x00 ∨ 0x0A ≤ op.toNat) →
    s.agenda = .step { word := (frame.headD 0).setWidth 10, frame := frame } :: rest →
    exec (.badOpcode frame) s = .next { s with result := [6] } ∧
    step s = .next { s with agenda := rest, result := [6] }

/-- Result frames have a fixed length per opcode, whatever the status (R92, R94, R104). -/
def Obligations.ResultFramesHaveFixedLength : Prop :=
  ∀ (i : Instr) (s t : State), exec i s = .next t → t.halted = false → t.result.length = resultLength i

/-! The step of the whole block. -/

/-- When the next input's label decodes to an instruction, `step` is `exec` of that instruction in the state that no longer holds the
label; nothing else is added around it (R11, R90). -/
def Obligations.StepRunsTheDecodedInstruction : Prop :=
  ∀ (s : State) (l : StepLabel) (rest : List Input) (i : Instr), configValid s.cfg = true →
    s.agenda = .step l :: rest → decode l = .ok i → step s = exec i { s with agenda := rest }

/-- With no input put in order (log 1): the timer's match comes, or, when the latch is set, the timer or the Manager Task as the free
value `Config.managerFirst` says, whatever it says (R220). A choice of the model: log 1. -/
def Obligations.StepWithoutInput : Prop :=
  ∀ s : State, configValid s.cfg = true → s.agenda = [] →
    (s.latch = false → step s = exec .tick s) ∧
    (s.latch = true → step s =
      if Config.managerFirst s.schedCount then exec .mgrInvoke { s with schedCount := s.schedCount + 1 }
      else exec .tick { s with schedCount := s.schedCount + 1 })

/-- Reset as an event sets every piece of the block's state to its reset value, in any state, a halted one included (R235); the model's own
agenda and counters go on (log 16). The fields R48 leaves unspecified (identity, action, repeat and token of pool buffers, contents of
pending records) go to the model's 0, `MOBILE` and no bytes: those values are the model's choice (log 3), where R235 does not set them. -/
def Obligations.ResetEventRestoresEverything : Prop :=
  ∀ (s : State) (rest : List Input), configValid s.cfg = true → s.agenda = .reset :: rest →
    step s = .next { State.resetWith s.cfg with agenda := rest, schedCount := s.schedCount, openCount := s.openCount }

/-- A configuration that is out of range or whose idle packet does not encode describes no hardware: no step is taken under it
(R6, R236). -/
def Obligations.BadConfigurationIsRefused : Prop :=
  ∀ s : State, configValid s.cfg = false → ∃ r, step s = .refused r

/-! Fatal faults. -/

/-- Fatal entry (R216): the state is the one before the step but for `halted`, `fatal_code` and the event, the output port of the model
(log 5) aside; while `halted` = 1 no agent has a step. -/
def Obligations.FatalFaultDiscardsTheStep : Prop :=
  (∀ (i : Instr) (s t : State), exec i s = .next t → t.halted = true →
    ∃ c : FatalCode, t = { s with halted := true, fatalCode := c.code, history := s.history ++ [.fatal c], result := [] }) ∧
  ∀ (i : Instr) (s : State), s.halted = true → exec i s = .fault .halted

/-- Return from a fatal fault: there is none but reset, and no second fault while halted (R217). That reset comes as the head of the agenda is
the model's choice (log 16); that it leaves `halted` and `fatal_code` 0 and an empty history is R235 and R239's. -/
def Obligations.OnlyResetLeavesTheHalt : Prop :=
  ∀ s t : State, s.halted = true → step s = .next t →
    (∃ rest, s.agenda = .reset :: rest) ∧ t.halted = false ∧ t.fatalCode = 0 ∧ t.history = []

/-- Where TICK takes each of its fatal faults (R161 to R163, R215), at the second half of a bit with no bit of the entry left: past the
last entry; a cursor buffer that is not radiable; a `NIL` link, a link outside the handle space or an `EMPTY` buffer after it; a reserved
state code after it (R22, I7; that it is not `F_RING`, as R163's pseudocode has it, is DEDUCED: log 11); and an empty array in the next
radiable buffer. -/
def Obligations.TickFatalCauses : Prop :=
  ∀ s : State, s.halted = false → s.eng.half = 1 → s.eng.left = 0 →
    (s.cfg.maxTransitions ≤ s.eng.idx + 1 → exec .tick s =
      .next { s with halted := true, fatalCode := 4, history := s.history ++ [.fatal .index], result := [] }) ∧
    (s.eng.idx + 1 < s.cfg.maxTransitions → ∀ b, s.bufs[s.eng.cursor]? = some b → b.arr[s.eng.idx + 1]? = some 0 →
      (b.state.radiable = false → exec .tick s =
        .next { s with halted := true, fatalCode := 1, history := s.history ++ [.fatal .badState], result := [] }) ∧
      (b.state.radiable = true →
        (b.next = none ∨ (∃ n, b.next = some n ∧ s.bufs[n]? = none) ∨
          (∃ n c, b.next = some n ∧ s.bufs[n]? = some c ∧ c.state = .empty) → exec .tick s =
          .next { s with halted := true, fatalCode := 5, history := s.history ++ [.fatal .ring], result := [] }) ∧
        (∀ n c, 0 < s.cfg.numBuffers → b.next = some n → s.bufs[n]? = some c → 5 ≤ c.state.code.toNat → exec .tick s =
          .next { s with halted := true, fatalCode := 1, history := s.history ++ [.fatal .badState], result := [] }) ∧
        (∀ n c, 0 < s.cfg.numBuffers → b.next = some n → n ≠ s.eng.cursor → s.bufs[n]? = some c → c.state.radiable = true →
          c.arr[0]? = some 0 → exec .tick s =
            .next { s with halted := true, fatalCode := 2, history := s.history ++ [.fatal .emptyArray], result := [] })))

/-- Which steps raise which fatal faults (R215): `F_EMPTY_ARRAY` and `F_INDEX` come from TICK alone, `F_ENCODE` from the three steps that
run LOAD_HEAD alone; FREE_BUFFERS, which follows links and reads no buffer state (R46), raises `F_RING` alone, and PACKETS_SENT, RESET_SCAN
and an unassigned opcode, which do neither, raise none. -/
def Obligations.FatalFaultsHaveTheirSources : Prop :=
  ∀ (i : Instr) (s t : State), exec i s = .next t → t.halted = true →
    (t.fatalCode = 2 ∨ t.fatalCode = 4 → i = .tick) ∧
    (t.fatalCode = 3 → i = .mgrInvoke ∨ (∃ a, i = .complete a) ∨ ∃ a, i = .submit a) ∧
    ((∃ a, i = .freeBuffers a) → t.fatalCode = 5) ∧
    (∀ a, i ≠ .packetsSent a) ∧ (∀ a, i ≠ .resetScan a) ∧ ∀ f, i ≠ .badOpcode f

/-! Reset. -/

/-- The values R48 and R236 to R239 give, for every configuration that describes hardware. -/
def Obligations.ResetValues : Prop :=
  ∀ c : Config, configValid c = true → ∃ a, encodePacket c c.idleBytes c.idlePreamble.toNat c.idlePostamble.toNat = .ok a ∧
    (State.resetWith c).bufs.length = c.numBuffers ∧ (State.resetWith c).pkts.length = c.numPending ∧
    (∃ b, (State.resetWith c).bufs[0]? = some b ∧ b.state = .fixed ∧ b.arr = a ∧ b.addr = 0 ∧ b.pol = .mobile ∧
      b.action = 0 ∧ b.repeatCount = 0 ∧ b.replyToken = 0 ∧ b.replyWhen = .never ∧ b.phead = none ∧ b.ptail = none ∧
      b.next = some 0 ∧ b.prev = some 0 ∧ b.linked = true ∧ b.isOpen = false) ∧
    (∀ h, 1 ≤ h → h < c.numBuffers → ∃ b, (State.resetWith c).bufs[h]? = some b ∧ b.state = .empty ∧ b.arr = [] ∧
      b.replyWhen = .never ∧ b.phead = none ∧ b.ptail = none ∧ b.next = none ∧ b.prev = none ∧ b.linked = false ∧
      b.isOpen = false ∧ b.fnext = if h + 1 < c.numBuffers then some (h + 1) else none) ∧
    (∀ p, p < c.numPending → ∃ k, (State.resetWith c).pkts[p]? = some k ∧
      k.next = if p + 1 < c.numPending then some (p + 1) else none) ∧
    (State.resetWith c).pool = { freeHead := some 1, pfreeHead := some 0 } ∧
    (State.resetWith c).eng = { cursor := 0, idx := 0, left := a.headD 0 - 1, half := 2, bitval := true, track := false,
                                cmp := c.halfOneTicks } ∧
    (State.resetWith c).latch = false ∧ (State.resetWith c).packetsSent = 0 ∧ (State.resetWith c).scanPos = 0 ∧
    (State.resetWith c).halted = false ∧ (State.resetWith c).fatalCode = 0 ∧ (State.resetWith c).history = []

/-- The reset values are made so that the invariants of R44 hold from the first step on (R235): 1 to 6 as `Sound`, and 7 for every
identity. -/
def Obligations.ResetIsSound : Prop :=
  ∀ c : Config, configValid c = true →
    Sound (State.resetWith c) ∧ ∀ addr pol, OneBufferFor (State.resetWith c) addr pol ∧ AtMostOneLive (State.resetWith c) addr pol

/-! What every step keeps. -/

/-- The invariants of R44 are preserved, so that no fatal fault is reachable from a sound state (R44, R215): 1 to 6 (`Sound`) by every step;
7, at most one live buffer of an identity, by every step but an ACQUIRE or SUBMIT of the identity without overwrite or while a buffer of it
is under construction (R141). -/
def Obligations.SoundnessIsKept : Prop :=
  (∀ s t : State, Sound s → step s = .next t → Sound t) ∧
  ∀ (i : Instr) (s t : State) (addr : Word) (pol : Polarity), Sound s → exec i s = .next t → OneBufferFor s addr pol →
    ¬ opensAnother i s addr pol → OneBufferFor t addr pol ∧ AtMostOneLive t addr pol

/-- In a sound state every step that is enabled completes and does not halt the block (R215): every instruction, in every operand
form, with MGR_INVOKE enabled while the latch is set (R181). -/
def Obligations.SoundBlockNeverStops : Prop :=
  ∀ (i : Instr) (s : State), Sound s → (i = .mgrInvoke → s.latch = true) → ∃ t, exec i s = .next t ∧ t.halted = false

/-- Both arenas keep exactly one record per handle, and no step writes the configuration (R20, R60). -/
def Obligations.ArenasAndConfigurationAreKept : Prop :=
  ∀ s t : State, Memory.wf s = true → step s = .next t → Memory.wf t = true ∧ t.cfg = s.cfg

/-- The fixed buffer is permanent: `FIXED`, linked, closed, with no queue and the idle packet's array (R21, R22, R30). -/
def Obligations.FixedBufferIsPermanent : Prop :=
  ∀ s t : State, FixedBufferSound s → step s = .next t → FixedBufferSound t

/-- Invariant 4 of R44: arrays the Timing Engine may play stay well-formed. -/
def Obligations.ArraysStayWellFormed : Prop :=
  ∀ s t : State, ArraysSound s → step s = .next t → ArraysSound t

/-- The track is low in the first half of a bit and high in the second, the bit value is the parity of the entry, and the compare interval
is the bit's (R38, R39, R160, R164). -/
def Obligations.EngineRegistersStayConsistent : Prop :=
  ∀ s t : State, EngineSound s → step s = .next t → EngineSound t

/-- Only TICK writes the output level, and every TICK inverts it (R37), a step that raises a fatal fault apart (R216). -/
def Obligations.TrackIsToggledByTickOnly : Prop :=
  ∀ (i : Instr) (s t : State), exec i s = .next t →
    (i = .tick → t.halted = false → t.eng.track = !s.eng.track) ∧ (i ≠ .tick → t.eng.track = s.eng.track)

/-- Buffer states move only as the table of R137 says, each by the step it names, and in no other way (R138); SUBMIT moves them as the
commands it is made of do (R190). -/
def Obligations.BufferStatesMoveAsTheTableSays : Prop :=
  ∀ (i : Instr) (s t : State) (h : Nat) (b c : Buffer), exec i s = .next t → s.bufs[h]? = some b → t.bufs[h]? = some c →
    c.state = b.state ∨ transitionAllowed i b.state c.state = true

/-- The history is appended to and never rewritten (R42). -/
def Obligations.HistoryOnlyGrows : Prop :=
  ∀ (i : Instr) (s t : State), exec i s = .next t → ∃ l, t.history = s.history ++ l

/-- A failed command is precise (R211 to R213): the state is the one before it, with one `Diag` event for a class (a) failure and none for
class (b); the one exception is COMPLETE of a new buffer with an empty queue. -/
def Obligations.FailedCommandChangesNothing : Prop :=
  ∀ (i : Instr) (s t : State) (st : Status), exec i s = .next t → t.halted = false → t.result.head? = some st.code →
    st.classA = true ∨ st.classB = true →
    (¬ ∃ h b, i = .complete (.ok h) ∧ Accepts s h.toNat b ∧ b.linked = false ∧ b.phead = none) →
    t = { s with result := t.result, history := s.history ++ if st.classA = true then [.diag st] else [] }

/-- Each step writes only the register groups the access table gives it (R46), and no step writes the configuration or the model's
agenda: the frame of every instruction. In a sound state no step reads a free value (log 7, log 12, log 18).
The premise is part of invariant 2 of R44: ACQUIRE clears `linked` on an `EMPTY` buffer, where it is clear already. -/
def Obligations.StepsWriteOnlyTheirGroups : Prop :=
  ∀ (i : Instr) (s t : State) (g : Group), exec i s = .next t → t.halted = false →
    (∀ (h : Nat) (b : Buffer), s.bufs[h]? = some b → b.state = .empty → b.linked = false) → g ∉ writes i →
    g.same s t ∧ t.cfg = s.cfg ∧ t.agenda = s.agenda ∧ t.schedCount = s.schedCount ∧
      (Sound s → t.openCount = s.openCount)

/-- No array is modified while the engine may play it: a buffer in `FIXED`, `RUN` or `RELOAD` keeps its array through every step
(R26, R45, R73). -/
def Obligations.ArraysUnchangedWhilePlayed : Prop :=
  ∀ (i : Instr) (s t : State) (h : Nat) (b c : Buffer), exec i s = .next t → s.bufs[h]? = some b → t.bufs[h]? = some c →
    b.state.radiable = true → c.arr = b.arr

/-! TICK. -/

/-- TICK in the first half of a bit (R160): the output toggles and the countdown goes to 1; nothing else changes. -/
def Obligations.TickEndsTheFirstHalf : Prop :=
  ∀ s : State, s.halted = false → s.eng.half = 2 → exec .tick s =
    .next { s with eng := { s.eng with track := !s.eng.track, half := 1 }, result := [] }

/-- TICK at the end of a bit, inside the array (R160, R161): the next bit of the entry, or the first bit of the next entry, whose value is
the entry's parity; the compare interval becomes the new bit's. -/
def Obligations.TickMovesWithinTheArray : Prop :=
  ∀ s : State, s.halted = false → s.eng.half = 1 →
    (0 < s.eng.left → exec .tick s =
      .next { s with eng := { s.eng with track := !s.eng.track, half := 2, left := s.eng.left - 1,
                                         cmp := if s.eng.bitval then s.cfg.halfOneTicks else s.cfg.halfZeroTicks }
                     result := [] }) ∧
    (s.eng.left = 0 → s.eng.idx + 1 < s.cfg.maxTransitions → ∀ b e, s.bufs[s.eng.cursor]? = some b →
      b.arr[s.eng.idx + 1]? = some e → e ≠ 0 → exec .tick s =
        .next { s with eng := { s.eng with track := !s.eng.track, half := 2, idx := s.eng.idx + 1, left := e - 1,
                                           bitval := decide ((s.eng.idx + 1) % 2 = 0),
                                           cmp := if (s.eng.idx + 1) % 2 = 0 then s.cfg.halfOneTicks
                                                  else s.cfg.halfZeroTicks }
                       result := [] })

/-- TICK at a terminator (R161 to R163, R165): the buffer's repeat policy is applied, the packet is counted, the cursor passes over the
buffers in `LOAD` to the next radiable one, and bit 0 of its array starts at once. -/
def Obligations.TickEndsTheTraversal : Prop :=
  ∀ (s : State) (b : Buffer) (passed : List Nat) (n : Nat) (c : Buffer) (e : Nat),
    s.halted = false → s.eng.half = 1 → s.eng.left = 0 → s.eng.idx + 1 < s.cfg.maxTransitions →
    s.bufs[s.eng.cursor]? = some b → b.arr[s.eng.idx + 1]? = some 0 → b.state.radiable = true →
    Chain s.nextOf (some n) b.next passed → passed.length < s.cfg.numBuffers →
    (∀ h ∈ passed, ∃ d, (s.bufs.set s.eng.cursor (afterTraversal b))[h]? = some d ∧ d.state = .load) →
    (s.bufs.set s.eng.cursor (afterTraversal b))[n]? = some c → c.state.radiable = true → c.arr[0]? = some e → e ≠ 0 →
    exec .tick s =
      .next { s with bufs := s.bufs.set s.eng.cursor (afterTraversal b)
                     latch := s.latch || decide ((afterTraversal b).state = .load)
                     packetsSent := s.packetsSent + 1
                     eng := { cursor := n, idx := 0, left := e - 1, half := 2, bitval := true, track := !s.eng.track,
                              cmp := s.cfg.halfOneTicks }
                     result := [] }

/-- The waveform of one traversal (R82, R89, R116, R164): from the start of an array, with TICKs alone, bit `k` of the array's bit
sequence is on the output from TICK `2k` to TICK `2k + 2`, low in its first half and high in its second, and the traversal takes two
TICKs for each bit and is counted at its end, where bit 0 of a radiable buffer's array starts. -/
def Obligations.WaveformOfAnArray : Prop :=
  ∀ (s : State) (b : Buffer), Sound s → s.bufs[s.eng.cursor]? = some b → s.eng.half = 2 → s.eng.idx = 0 →
    b.arr[0]? = some (s.eng.left + 1) →
    (∀ k v, (arrayBits b.arr)[k]? = some v →
      (∃ t, runTicks (2 * k) s = some t ∧ t.eng.cursor = s.eng.cursor ∧ t.bufs = s.bufs ∧ t.packetsSent = s.packetsSent ∧
        t.eng.half = 2 ∧ t.eng.track = false ∧ t.eng.bitval = v ∧
        t.eng.cmp = if v then s.cfg.halfOneTicks else s.cfg.halfZeroTicks) ∧
      ∃ t, runTicks (2 * k + 1) s = some t ∧ t.eng.cursor = s.eng.cursor ∧ t.eng.track = true ∧ t.eng.bitval = v ∧
        t.eng.cmp = if v then s.cfg.halfOneTicks else s.cfg.halfZeroTicks) ∧
    ∃ t, runTicks (2 * (arrayBits b.arr).length) s = some t ∧ t.packetsSent = s.packetsSent + 1 ∧ t.eng.half = 2 ∧
      t.eng.idx = 0 ∧ t.eng.bitval = true ∧
      ∃ c, t.bufs[t.eng.cursor]? = some c ∧ c.state.radiable = true ∧ c.arr[0]? = some (t.eng.left + 1)

/-! MGR_INVOKE. -/

/-- MGR_INVOKE is enabled exactly when the latch is set and the block runs (R181); disabled, it has no step. -/
def Obligations.ManagerIsEnabledByTheLatch : Prop :=
  ∀ s : State, s.halted = false →
    (s.latch = false → exec .mgrInvoke s = .refused .managerNotEnabled) ∧
    (s.latch = true → ∀ r, exec .mgrInvoke s ≠ .refused r)

/-- MGR_INVOKE in a sound state with the latch set (R180, R182, R183): each closed buffer in `LOAD` gets its head packet encoded and runs,
or, with an empty queue, leaves the ring as `EMPTY`; every other buffer keeps all but its ring links, and an unlinked one keeps those too;
the buffers that stay keep their order on the ring (R134); the retired ones are on top of the free list, pushed in ring order (R130); the
loaded records are on top of the pending free list, pushed in ring order (R131), and every other record is as it was, as are all fields of the
loaded ones but `next`; the replies come in ring order; nothing else changes. -/
def Obligations.ManagerServicesEachBuffer : Prop :=
  ∀ s : State, Sound s → s.latch = true → ∃ t ring, exec .mgrInvoke s = .next t ∧ RingIs s ring ∧
    t = { s with bufs := t.bufs, pkts := t.pkts, pool := t.pool, latch := false
                 history := s.history ++ ring.filterMap s.serviceReply, result := [] } ∧
    RingLinks t (ring.filter fun h => !s.retires h) ∧
    BuffersReleased s t (ring.filter s.retires) ∧
    QueueReleased s t (ring.filterMap s.loadedRecord) ∧
    ∀ (h : Nat) (b : Buffer), s.bufs[h]? = some b → ∃ c, t.bufs[h]? = some c ∧
      (b.linked = false → c = b) ∧
      (b.serviceable = false → c = { b with next := c.next, prev := c.prev }) ∧
      (b.serviceable = true → b.phead = none →
        c = { b with state := .empty, linked := false, next := none, prev := none, replyWhen := .never, fnext := c.fnext }) ∧
      (b.serviceable = true → ∀ p, b.phead = some p → ∃ k a, s.pkts[p]? = some k ∧
        encodePacket s.cfg k.bytes k.pre.toNat k.post.toNat = .ok a ∧
        c = { b with state := .run, arr := a, repeatCount := k.dur, phead := k.next,
                     ptail := if k.next = none then none else b.ptail,
                     replyWhen := if k.next = none ∧ b.replyWhen = .atStart then .never else b.replyWhen,
                     next := c.next, prev := c.prev })

/-- Drain (R184, R248): after MGR_INVOKE in a sound state no linked closed buffer is in `LOAD`, and the buffer being played is still on the
ring. -/
def Obligations.ManagerDrains : Prop :=
  ∀ s : State, Sound s → s.latch = true → ∃ t, exec .mgrInvoke s = .next t ∧ t.halted = false ∧
    (∀ (h : Nat) (b : Buffer), t.bufs[h]? = some b → b.linked = true → b.isOpen = false → b.state ≠ .load) ∧
    ∃ b, t.bufs[t.eng.cursor]? = some b ∧ b.linked = true ∧ b.state.radiable = true

/-! ACQUIRE. -/

/-- ACQUIRE of a new buffer (R140): the buffer on top of the free list, in `LOAD`, with the identity and action given, open and
unlinked; its array and links keep what they hold. -/
def Obligations.AcquireTakesAFreeBuffer : Prop :=
  ∀ (s : State) (a : AcquireArgs) (h : Nat) (b : Buffer), s.halted = false → InRange a.pol a.addr →
    (a.ow = true → NoLiveTarget s a.addr a.pol) → s.pool.freeHead = some h → s.bufs[h]? = some b → b.state = .empty →
    exec (.acquire (.ok a)) s =
      .next { s with bufs := s.bufs.set h { b with state := .load, addr := a.addr, pol := a.pol, action := a.action,
                                                   repeatCount := 0, phead := none, ptail := none, replyWhen := .never,
                                                   replyToken := 0, linked := false, isOpen := true, fnext := none }
                     pool := { s.pool with freeHead := b.fnext }
                     result := [0, BitVec.ofNat 8 h] }

/-- ACQUIRE with overwrite of a live target (R140, R141): the first live buffer with the identity is returned, open, with the new
action, no reply and an empty queue, whose records are released (R132); it goes on radiating what it was radiating. -/
def Obligations.AcquireReturnsTheLiveBuffer : Prop :=
  ∀ (s : State) (a : AcquireArgs) (h : Nat) (b : Buffer) (q : List Nat), s.halted = false → InRange a.pol a.addr →
    a.ow = true → FirstLiveTarget s a.addr a.pol h b → PendingListIs s b.phead q →
    ∃ t, exec (.acquire (.ok a)) s = .next t ∧ QueueReleased s t q ∧
      t = { s with bufs := s.bufs.set h { b with action := a.action, isOpen := true, replyWhen := .never, phead := none,
                                                 ptail := none }
                   pkts := t.pkts
                   pool := { s.pool with pfreeHead := t.pool.pfreeHead }
                   result := [0, BitVec.ofNat 8 h] }

/-- Where ACQUIRE fails (R140, R151): an address out of range before anything else, then no free buffer and nothing to overwrite. -/
def Obligations.AcquireFailures : Prop :=
  ∀ (s : State) (a : AcquireArgs), s.halted = false →
    (¬ InRange a.pol a.addr → exec (.acquire (.ok a)) s = .next { s with result := [4, 0xFF] }) ∧
    (InRange a.pol a.addr → (a.ow = true → NoLiveTarget s a.addr a.pol) → s.pool.freeHead = none →
      exec (.acquire (.ok a)) s =
        .next { s with history := s.history ++ [.diag .noBuffer], result := [1, 0xFF] })

/-! EXTEND, COMPLETE and CANCEL. -/

/-- A host handle that is 0, past the arena or of a buffer that is not open answers `BAD_HANDLE` and changes nothing (R62, R212), before any
value is looked at (R151). -/
def Obligations.HandlesAreChecked : Prop :=
  ∀ (s : State) (h : Byte), s.halted = false → (¬ ∃ b, Accepts s h.toNat b) →
    (∀ a : ExtendArgs, a.h = h → exec (.extend (.ok a)) s = .next { s with result := [5] }) ∧
    exec (.complete (.ok h)) s = .next { s with result := [5] } ∧
    exec (.cancel (.ok h)) s = .next { s with result := [5] }

/-- EXTEND (R143 to R145): the record on top of the pending free list takes the packet and goes to the queue's tail, the buffer's reply
policy is EXTEND's, and of the states only `RUN` changes, to `RELOAD` (D35), whatever state but a reserved one the buffer is in. -/
def Obligations.ExtendAppendsThePacket : Prop :=
  ∀ (s : State) (a : ExtendArgs) (b : Buffer) (p : Nat) (k : Packet), s.halted = false → Accepts s a.h.toNat b →
    b.state.code.toNat < 5 → (encodePacket s.cfg a.d a.pre.toNat a.post.toNat).isOk = true →
    s.pool.pfreeHead = some p → s.pkts[p]? = some k → (b.phead ≠ none → ∃ q, b.ptail = some q ∧ q < s.pkts.length) →
    exec (.extend (.ok a)) s =
      .next { s with
        bufs := s.bufs.set a.h.toNat { b with phead := if b.phead = none then some p else b.phead
                                              ptail := some p
                                              replyWhen := a.rw
                                              replyToken := a.token
                                              state := if b.state = .run then .reload else b.state }
        pkts :=
          let new := s.pkts.set p { pre := a.pre, post := a.post, dur := a.dur, len := BitVec.ofNat 8 a.d.length,
                                    bytes := a.d, next := none }
          match b.phead, b.ptail with
          | some _, some q => new.modify q fun r => { r with next := some p }
          | _, _ => new
        pool := { s.pool with pfreeHead := k.next }
        result := [0] }

/-- Where EXTEND fails with an accepted handle, in the order of R151: an argument out of range (R111), then overflow, then no pending
record. -/
def Obligations.ExtendFailures : Prop :=
  ∀ (s : State) (a : ExtendArgs) (b : Buffer), s.halted = false → Accepts s a.h.toNat b →
    (¬ (1 ≤ a.pre.toNat ∧ 1 ≤ a.post.toNat ∧ 1 ≤ a.d.length ∧ a.d.length ≤ s.cfg.maxCommand) →
      exec (.extend (.ok a)) s = .next { s with result := [4] }) ∧
    (encodePacket s.cfg a.d a.pre.toNat a.post.toNat = .overflow →
      exec (.extend (.ok a)) s = .next { s with history := s.history ++ [.diag .overflow], result := [3] }) ∧
    ((encodePacket s.cfg a.d a.pre.toNat a.post.toNat).isOk = true → s.pool.pfreeHead = none →
      exec (.extend (.ok a)) s = .next { s with history := s.history ++ [.diag .noPending], result := [2] })

/-- COMPLETE of a newly acquired buffer with a packet (R147, R136, R133): the head packet is encoded and its record freed, the buffer runs,
closed, linked right after the buffer being played, and an "at start" reply fires when the packet was the queue's last. -/
def Obligations.CompleteStartsANewBuffer : Prop :=
  ∀ (s : State) (h : Byte) (b : Buffer) (p : Nat) (k : Packet) (a : List Nat) (n : Nat) (cb nb : Buffer),
    s.halted = false → Accepts s h.toNat b → b.linked = false → b.state = .load → b.phead = some p → s.pkts[p]? = some k →
    k.bytes.length = k.len.toNat → encodePacket s.cfg k.bytes k.pre.toNat k.post.toNat = .ok a →
    s.bufs[s.eng.cursor]? = some cb → cb.next = some n → s.bufs[n]? = some nb → h.toNat ≠ s.eng.cursor → h.toNat ≠ n →
    ∃ t, exec (.complete (.ok h)) s = .next t ∧ LinkedAfter s t s.eng.cursor n h.toNat ∧
      t.bufs[h.toNat]? = some { b with
        state := .run, arr := a, repeatCount := k.dur, phead := k.next
        ptail := if k.next = none then none else b.ptail
        replyWhen := if k.next = none ∧ b.replyWhen = .atStart then .never else b.replyWhen
        next := some n, prev := some s.eng.cursor, linked := true, isOpen := false } ∧
      t = { s with bufs := t.bufs
                   pkts := s.pkts.set p { k with next := s.pool.pfreeHead }
                   pool := { s.pool with pfreeHead := some p }
                   history := s.history ++ if k.next = none ∧ b.replyWhen = .atStart then [.reply b.replyToken] else []
                   result := [0] }

/-- COMPLETE of a newly acquired buffer with nothing to send (R147): `BAD_ARG`, and the buffer goes back to the free list. -/
def Obligations.CompleteReturnsAnEmptyBuffer : Prop :=
  ∀ (s : State) (h : Byte) (b : Buffer), s.halted = false → Accepts s h.toNat b → b.linked = false → b.state = .load →
    b.phead = none →
    exec (.complete (.ok h)) s =
      .next { s with bufs := s.bufs.set h.toNat { b with state := .empty, isOpen := false, fnext := s.pool.freeHead }
                     pool := { s.pool with freeHead := some h.toNat }
                     result := [4] }

/-- COMPLETE of a reused buffer (R148): it is closed, nothing is encoded, and the latch is set when it waits in `LOAD`. A `FIXED` buffer there is
a broken invariant 3 of R44: `F_BAD_STATE` (R215; that R213 does not forbid it is the model's choice, log 22). -/
def Obligations.CompleteClosesAReusedBuffer : Prop :=
  ∀ (s : State) (h : Byte) (b : Buffer), s.halted = false → Accepts s h.toNat b → b.linked = true →
    (b.state.live = true → exec (.complete (.ok h)) s =
      .next { s with bufs := s.bufs.set h.toNat { b with isOpen := false }
                     latch := s.latch || decide (b.state = .load)
                     result := [0] }) ∧
    (b.state = .fixed → exec (.complete (.ok h)) s =
      .next { s with halted := true, fatalCode := 1, history := s.history ++ [.fatal .badState], result := [] })

/-- CANCEL of a newly acquired buffer (R149): its queue is released and it goes on top of the free list, `EMPTY` and closed. -/
def Obligations.CancelFreesANewBuffer : Prop :=
  ∀ (s : State) (h : Byte) (b : Buffer) (q : List Nat), s.halted = false → Accepts s h.toNat b → b.linked = false →
    b.state = .load → PendingListIs s b.phead q →
    ∃ t, exec (.cancel (.ok h)) s = .next t ∧ QueueReleased s t q ∧
      t = { s with bufs := s.bufs.set h.toNat { b with phead := none, ptail := none, replyWhen := .never, isOpen := false,
                                                       state := .empty, fnext := s.pool.freeHead }
                   pkts := t.pkts
                   pool := { freeHead := some h.toNat, pfreeHead := t.pool.pfreeHead }
                   result := [0] }

/-- CANCEL of a reused buffer (R150): its queue is released and it is closed; it keeps its state and its place on the ring, and the latch
is set when it waits in `LOAD`. A `FIXED` buffer there is
a broken invariant 3 of R44: `F_BAD_STATE` (R215; that R213 does not forbid it is the model's choice, log 22). -/
def Obligations.CancelClosesAReusedBuffer : Prop :=
  ∀ (s : State) (h : Byte) (b : Buffer) (q : List Nat), s.halted = false → Accepts s h.toNat b → b.linked = true →
    PendingListIs s b.phead q →
    (b.state.live = true → ∃ t, exec (.cancel (.ok h)) s = .next t ∧ QueueReleased s t q ∧
      t = { s with bufs := s.bufs.set h.toNat { b with phead := none, ptail := none, replyWhen := .never, isOpen := false }
                   pkts := t.pkts
                   pool := { s.pool with pfreeHead := t.pool.pfreeHead }
                   latch := s.latch || decide (b.state = .load)
                   result := [0] }) ∧
    (b.state = .fixed → exec (.cancel (.ok h)) s =
      .next { s with halted := true, fatalCode := 1, history := s.history ++ [.fatal .badState], result := [] })

/-- A CANCEL of a new buffer restores the free list to what it was before the ACQUIRE (R149, R130). -/
def Obligations.CancelUndoesAcquire : Prop :=
  ∀ (s t : State) (a : AcquireArgs) (h : Nat) (b : Buffer), s.halted = false → InRange a.pol a.addr →
    (a.ow = true → NoLiveTarget s a.addr a.pol) → s.pool.freeHead = some h → s.bufs[h]? = some b → b.state = .empty →
    1 ≤ h → h ≤ s.cfg.numBuffers - 1 → s.cfg.numBuffers ≤ 255 → exec (.acquire (.ok a)) s = .next t →
    ∃ u, exec (.cancel (.ok (BitVec.ofNat 8 h))) t = .next u ∧ u.result = [0] ∧ u.pool = s.pool ∧ u.pkts = s.pkts ∧
      u.history = s.history ∧ u.latch = s.latch ∧
      u.bufs.map (·.fnext) = s.bufs.map (·.fnext) ∧ u.bufs.map (·.state) = s.bufs.map (·.state) ∧
      ∀ j, j ≠ h → u.bufs[j]? = s.bufs[j]?

/-! SUBMIT. -/

/-- SUBMIT for an identity with no live buffer, or without overwrite (R190, R191): a free buffer runs the packet, linked right after the
buffer being played; the pending record it went through is free again. -/
def Obligations.SubmitStartsANewBuffer : Prop :=
  ∀ (s : State) (a : SubmitArgs) (h p n : Nat) (b cb nb : Buffer) (k : Packet) (r : List Nat),
    s.halted = false → InRange a.pol a.addr → (a.ow = true → NoLiveTarget s a.addr a.pol) →
    encodePacket s.cfg a.d a.pre.toNat a.post.toNat = .ok r → a.d.length ≤ 255 →
    s.pool.freeHead = some h → s.bufs[h]? = some b → b.state = .empty → 1 ≤ h → h ≤ s.cfg.numBuffers - 1 →
    s.pool.pfreeHead = some p → s.pkts[p]? = some k →
    s.bufs[s.eng.cursor]? = some cb → cb.next = some n → s.bufs[n]? = some nb → h ≠ s.eng.cursor → h ≠ n →
    ∃ t, exec (.submit (.ok a)) s = .next t ∧ LinkedAfter s t s.eng.cursor n h ∧
      t.bufs[h]? = some { state := .run, addr := a.addr, pol := a.pol, action := a.action, repeatCount := a.dur, arr := r,
                          phead := none, ptail := none, replyWhen := if a.rw = .atStart then .never else a.rw,
                          replyToken := a.token, next := some n, prev := some s.eng.cursor, linked := true,
                          isOpen := false, fnext := none } ∧
      t = { s with bufs := t.bufs
                   pkts := s.pkts.set p { pre := a.pre, post := a.post, dur := a.dur, len := BitVec.ofNat 8 a.d.length,
                                          bytes := a.d, next := k.next }
                   pool := { s.pool with freeHead := b.fnext }
                   history := s.history ++ if a.rw = .atStart then [.reply a.token] else []
                   result := [0, BitVec.ofNat 8 h] }

/-- SUBMIT with overwrite of a live target (R190, R191): its queue is replaced by the one new packet, whose record may be one the old queue
gave back, and of every other record `next` alone may change; `RUN` becomes `RELOAD`; the latch is set when the buffer waits in `LOAD`. -/
def Obligations.SubmitOverwritesTheLiveBuffer : Prop :=
  ∀ (s : State) (a : SubmitArgs) (h p : Nat) (b : Buffer) (q free rest : List Nat),
    s.halted = false → InRange a.pol a.addr → a.ow = true → FirstLiveTarget s a.addr a.pol h b → b.linked = true →
    1 ≤ h → h ≤ s.cfg.numBuffers - 1 → (encodePacket s.cfg a.d a.pre.toNat a.post.toNat).isOk = true →
    PendingListIs s b.phead q → PendingListIs s s.pool.pfreeHead free → (∀ j ∈ q, j ∉ free) → q.reverse ++ free = p :: rest →
    ∃ t, exec (.submit (.ok a)) s = .next t ∧ Chain t.pnextOf none t.pool.pfreeHead rest ∧
      t.pkts[p]? = some { pre := a.pre, post := a.post, dur := a.dur, len := BitVec.ofNat 8 a.d.length, bytes := a.d,
                          next := none } ∧
      (∀ j, j ∉ q → j ≠ p → t.pkts[j]? = s.pkts[j]?) ∧
      (∀ (j : Nat) (k : Packet), j ≠ p → s.pkts[j]? = some k → ∃ l, t.pkts[j]? = some { k with next := l }) ∧
      t = { s with bufs := s.bufs.set h { b with action := a.action, isOpen := false, phead := some p, ptail := some p,
                                                 replyWhen := a.rw, replyToken := a.token,
                                                 state := if b.state = .run then .reload else b.state }
                   pkts := t.pkts
                   pool := { s.pool with pfreeHead := t.pool.pfreeHead }
                   latch := s.latch || decide (b.state = .load)
                   result := [0, BitVec.ofNat 8 h] }

/-- Where SUBMIT fails, in the order of R151, with nothing changed but one `Diag` event (R190, R191): range, argument, overflow, no buffer,
no pending record, the last also after an overwrite has found an empty queue to release. -/
def Obligations.SubmitFailures : Prop :=
  ∀ (s : State) (a : SubmitArgs), s.halted = false →
    (¬ InRange a.pol a.addr → exec (.submit (.ok a)) s = .next { s with result := [4, 0xFF] }) ∧
    (InRange a.pol a.addr →
      (¬ (1 ≤ a.pre.toNat ∧ 1 ≤ a.post.toNat ∧ 1 ≤ a.d.length ∧ a.d.length ≤ s.cfg.maxCommand) →
        exec (.submit (.ok a)) s = .next { s with result := [4, 0xFF] }) ∧
      (encodePacket s.cfg a.d a.pre.toNat a.post.toNat = .overflow → exec (.submit (.ok a)) s =
        .next { s with history := s.history ++ [.diag .overflow], result := [3, 0xFF] }) ∧
      ((encodePacket s.cfg a.d a.pre.toNat a.post.toNat).isOk = true →
        ((a.ow = true → NoLiveTarget s a.addr a.pol) → s.pool.freeHead = none → exec (.submit (.ok a)) s =
          .next { s with history := s.history ++ [.diag .noBuffer], result := [1, 0xFF] }) ∧
        (∀ h b, (a.ow = true → NoLiveTarget s a.addr a.pol) → s.pool.freeHead = some h → s.bufs[h]? = some b →
          b.state = .empty → 1 ≤ h → h ≤ s.cfg.numBuffers - 1 → s.pool.pfreeHead = none → exec (.submit (.ok a)) s =
          .next { s with history := s.history ++ [.diag .noPending], result := [2, 0xFF] }) ∧
        (∀ h b, a.ow = true → FirstLiveTarget s a.addr a.pol h b → 1 ≤ h → h ≤ s.cfg.numBuffers - 1 → b.phead = none →
          s.pool.pfreeHead = none → exec (.submit (.ok a)) s =
          .next { s with history := s.history ++ [.diag .noPending], result := [2, 0xFF] })))

/-- SUBMIT is ACQUIRE, EXTEND of the handle it returns and COMPLETE of it, as one step (R190): when it answers `OK`, the three commands in
that order all answer `OK` and leave the same state, SUBMIT's result frame apart. -/
def Obligations.SubmitIsAcquireExtendComplete : Prop :=
  ∀ (s t : State) (a : SubmitArgs) (h : Byte), configValid s.cfg = true → exec (.submit (.ok a)) s = .next t →
    t.halted = false → t.result = [0, h] →
    ∃ u v w, exec (.acquire (.ok { pol := a.pol, ow := a.ow, addr := a.addr, action := a.action })) s = .next u ∧
      u.result = [0, h] ∧
      exec (.extend (.ok { h := h, pre := a.pre, post := a.post, dur := a.dur, rw := a.rw, token := a.token, d := a.d })) u =
        .next v ∧ v.result = [0] ∧
      exec (.complete (.ok h)) v = .next w ∧ w.result = [0] ∧ t = { w with result := [0, h] }

/-! Queries. -/

/-- FREE_BUFFERS counts the buffers on the free list and changes nothing (R192): on a list that ends, and on one that comes back to a buffer on
it, where each buffer counts once (DEDUCED, log 9). -/
def Obligations.FreeBuffersCountsTheFreeList : Prop :=
  ∀ (s : State) (free : List Nat) (stop : Option Nat), s.halted = false → Chain s.fnextOf stop s.pool.freeHead free →
    stop = none ∨ (free.Nodup ∧ ∃ h ∈ free, stop = some h) → (∀ h ∈ free, h < s.bufs.length) →
    exec (.freeBuffers (.ok ())) s = .next { s with result := [0, BitVec.ofNat 8 free.length] }

/-- PACKETS_SENT returns the counter, low byte first, and changes nothing (R193, R101). -/
def Obligations.PacketsSentReadsTheCounter : Prop :=
  ∀ s : State, s.halted = false → ∃ lo hi : Byte, lo.toNat + 256 * hi.toNat = s.packetsSent.toNat ∧
    exec (.packetsSent (.ok ())) s = .next { s with result := [0, lo, hi] }

/-- RESET_SCAN (R194): `BAD_ARG` for a wrong length, otherwise the scan starts again; nothing else changes. -/
def Obligations.ResetScanStartsAgain : Prop :=
  ∀ s : State, s.halted = false →
    exec (.resetScan (.ok ())) s = .next { s with scanPos := 0, result := [0] } ∧
    ∀ t, exec (.resetScan (.malformed t)) s = .next { s with result := [4] }

/-- SCAN_NEXT (R195, R103): the live buffer at the scan position in ring order, and the position moves on; past the last one `END`, and
nothing changes. -/
def Obligations.ScanNextWalksTheRing : Prop :=
  ∀ (s : State) (ring : List Nat), s.halted = false → RingIs s ring →
    (∀ h b, ring[s.scanPos.toNat]? = some h → s.bufs[h]? = some b →
      ∃ p a0 a1 c0 c1 : Byte, p = (if b.pol = .mobile then 0 else 1) ∧
        a0.toNat + 256 * a1.toNat = b.addr.toNat ∧ c0.toNat + 256 * c1.toNat = b.action.toNat ∧
        exec (.scanNext (.ok ())) s = .next { s with scanPos := s.scanPos + 1, result := [0, p, a0, a1, c0, c1] }) ∧
    (ring.length ≤ s.scanPos.toNat →
      exec (.scanNext (.ok ())) s = .next { s with result := [7, 0, 0, 0, 0, 0] })

/-! The Bitstream Encoder. -/

/-- ENCODE's array stands for exactly the packet's bit sequence, of `pre + 9n + post` bits (R85, R116). -/
def Obligations.EncodeStandsForThePacket : Prop :=
  ∀ (c : Config) (d : List Byte) (pre post : Nat) (a : List Nat), encodePacket c d pre post = .ok a →
    arrayBits a = List.replicate pre true ++
        (d.map fun b => [false, b.getLsbD 7, b.getLsbD 6, b.getLsbD 5, b.getLsbD 4, b.getLsbD 3, b.getLsbD 2, b.getLsbD 1,
          b.getLsbD 0]).flatten ++ List.replicate post true ∧
    (arrayBits a).length = pre + 9 * d.length + post

/-- Every array ENCODE returns is well-formed, fits the array and holds entries that fit their width (R83, R84). -/
def Obligations.EncodeIsWellFormed : Prop :=
  ∀ (c : Config) (d : List Byte) (pre post : Nat) (a : List Nat), encodePacket c d pre post = .ok a →
    a.length ≤ c.maxTransitions ∧ (∀ e ∈ a, e ≤ 2 ^ c.runWidth - 1) ∧
    ∃ t, 1 ≤ t ∧ t + 1 = a.length ∧ a[t]? = some 0 ∧ ∀ i e, i < t → a[i]? = some e → e ≠ 0

/-- Round trip (R118, R117): the bytes, the preamble and the postamble are recovered from the array, for two inputs never give the same
array. -/
def Obligations.EncodeIsInjective : Prop :=
  ∀ (c : Config) (d e : List Byte) (pre post pre' post' : Nat) (a : List Nat),
    encodePacket c d pre post = .ok a → encodePacket c e pre' post' = .ok a → d = e ∧ pre = pre' ∧ post = post'

/-- Worst case (R114, R115): at most `8n + 3` runs, reached by `0xAA` bytes; and (R111, R113) with the capacity that allows for it, an
accepted packet overflows only through a run above `RUN_MAX`, which with entries of 8 bits and at most 28 bytes only the last byte's
trailing ones with the postamble can be. -/
def Obligations.EncodeWorstCase : Prop :=
  ∀ (c : Config) (d : List Byte) (pre post : Nat), argsOk c d.length pre post = true →
    (packetRuns d pre post).length ≤ 8 * d.length + 3 ∧
    ((∀ b ∈ d, b = 0xAA) → (packetRuns d pre post).length = 8 * d.length + 3) ∧
    (8 * c.maxCommand + 4 ≤ c.maxTransitions → c.runWidth = 8 → c.maxCommand ≤ 28 →
      (encodePacket c d pre post = .overflow ↔
        255 < (((d.getLast?.map byteBits).getD []).reverse.takeWhile (· = true)).length + post))
end

