-- ==== Sys2Proof/Laws/State.lean ====
section
/-! SUPPORT. What each update of the state does to each field: one lemma per field per update. -/

namespace Sys2Proof.Machine

variable (s : State)

@[simp] theorem State.clearResult_bufs : s.clearResult.bufs = s.bufs := rfl
@[simp] theorem State.clearResult_pkts : s.clearResult.pkts = s.pkts := rfl
@[simp] theorem State.clearResult_pool : s.clearResult.pool = s.pool := rfl
@[simp] theorem State.clearResult_eng : s.clearResult.eng = s.eng := rfl
@[simp] theorem State.clearResult_latch : s.clearResult.latch = s.latch := rfl
@[simp] theorem State.clearResult_packetsSent : s.clearResult.packetsSent = s.packetsSent := rfl
@[simp] theorem State.clearResult_scanPos : s.clearResult.scanPos = s.scanPos := rfl
@[simp] theorem State.clearResult_history : s.clearResult.history = s.history := rfl
@[simp] theorem State.clearResult_halted : s.clearResult.halted = s.halted := rfl
@[simp] theorem State.clearResult_fatalCode : s.clearResult.fatalCode = s.fatalCode := rfl
@[simp] theorem State.clearResult_cfg : s.clearResult.cfg = s.cfg := rfl
@[simp] theorem State.clearResult_agenda : s.clearResult.agenda = s.agenda := rfl
@[simp] theorem State.clearResult_schedCount : s.clearResult.schedCount = s.schedCount := rfl
@[simp] theorem State.clearResult_openCount : s.clearResult.openCount = s.openCount := rfl
@[simp] theorem State.clearResult_result : s.clearResult.result = [] := rfl

@[simp] theorem State.setFreeHead_bufs (l : Option Nat) : (s.setFreeHead l).bufs = s.bufs := rfl
@[simp] theorem State.setFreeHead_pkts (l : Option Nat) : (s.setFreeHead l).pkts = s.pkts := rfl
@[simp] theorem State.setFreeHead_pool (l : Option Nat) : (s.setFreeHead l).pool = { s.pool with freeHead := l } := rfl
@[simp] theorem State.setFreeHead_eng (l : Option Nat) : (s.setFreeHead l).eng = s.eng := rfl
@[simp] theorem State.setFreeHead_latch (l : Option Nat) : (s.setFreeHead l).latch = s.latch := rfl
@[simp] theorem State.setFreeHead_packetsSent (l : Option Nat) : (s.setFreeHead l).packetsSent = s.packetsSent := rfl
@[simp] theorem State.setFreeHead_scanPos (l : Option Nat) : (s.setFreeHead l).scanPos = s.scanPos := rfl
@[simp] theorem State.setFreeHead_history (l : Option Nat) : (s.setFreeHead l).history = s.history := rfl
@[simp] theorem State.setFreeHead_halted (l : Option Nat) : (s.setFreeHead l).halted = s.halted := rfl
@[simp] theorem State.setFreeHead_fatalCode (l : Option Nat) : (s.setFreeHead l).fatalCode = s.fatalCode := rfl
@[simp] theorem State.setFreeHead_cfg (l : Option Nat) : (s.setFreeHead l).cfg = s.cfg := rfl
@[simp] theorem State.setFreeHead_agenda (l : Option Nat) : (s.setFreeHead l).agenda = s.agenda := rfl
@[simp] theorem State.setFreeHead_schedCount (l : Option Nat) : (s.setFreeHead l).schedCount = s.schedCount := rfl
@[simp] theorem State.setFreeHead_openCount (l : Option Nat) : (s.setFreeHead l).openCount = s.openCount := rfl
@[simp] theorem State.setFreeHead_result (l : Option Nat) : (s.setFreeHead l).result = s.result := rfl

@[simp] theorem State.setPfreeHead_bufs (l : Option Nat) : (s.setPfreeHead l).bufs = s.bufs := rfl
@[simp] theorem State.setPfreeHead_pkts (l : Option Nat) : (s.setPfreeHead l).pkts = s.pkts := rfl
@[simp] theorem State.setPfreeHead_pool (l : Option Nat) : (s.setPfreeHead l).pool = { s.pool with pfreeHead := l } := rfl
@[simp] theorem State.setPfreeHead_eng (l : Option Nat) : (s.setPfreeHead l).eng = s.eng := rfl
@[simp] theorem State.setPfreeHead_latch (l : Option Nat) : (s.setPfreeHead l).latch = s.latch := rfl
@[simp] theorem State.setPfreeHead_packetsSent (l : Option Nat) : (s.setPfreeHead l).packetsSent = s.packetsSent := rfl
@[simp] theorem State.setPfreeHead_scanPos (l : Option Nat) : (s.setPfreeHead l).scanPos = s.scanPos := rfl
@[simp] theorem State.setPfreeHead_history (l : Option Nat) : (s.setPfreeHead l).history = s.history := rfl
@[simp] theorem State.setPfreeHead_halted (l : Option Nat) : (s.setPfreeHead l).halted = s.halted := rfl
@[simp] theorem State.setPfreeHead_fatalCode (l : Option Nat) : (s.setPfreeHead l).fatalCode = s.fatalCode := rfl
@[simp] theorem State.setPfreeHead_cfg (l : Option Nat) : (s.setPfreeHead l).cfg = s.cfg := rfl
@[simp] theorem State.setPfreeHead_agenda (l : Option Nat) : (s.setPfreeHead l).agenda = s.agenda := rfl
@[simp] theorem State.setPfreeHead_schedCount (l : Option Nat) : (s.setPfreeHead l).schedCount = s.schedCount := rfl
@[simp] theorem State.setPfreeHead_openCount (l : Option Nat) : (s.setPfreeHead l).openCount = s.openCount := rfl
@[simp] theorem State.setPfreeHead_result (l : Option Nat) : (s.setPfreeHead l).result = s.result := rfl

@[simp] theorem State.setEng_bufs (e : Engine) : (s.setEng e).bufs = s.bufs := rfl
@[simp] theorem State.setEng_pkts (e : Engine) : (s.setEng e).pkts = s.pkts := rfl
@[simp] theorem State.setEng_pool (e : Engine) : (s.setEng e).pool = s.pool := rfl
@[simp] theorem State.setEng_eng (e : Engine) : (s.setEng e).eng = e := rfl
@[simp] theorem State.setEng_latch (e : Engine) : (s.setEng e).latch = s.latch := rfl
@[simp] theorem State.setEng_packetsSent (e : Engine) : (s.setEng e).packetsSent = s.packetsSent := rfl
@[simp] theorem State.setEng_scanPos (e : Engine) : (s.setEng e).scanPos = s.scanPos := rfl
@[simp] theorem State.setEng_history (e : Engine) : (s.setEng e).history = s.history := rfl
@[simp] theorem State.setEng_halted (e : Engine) : (s.setEng e).halted = s.halted := rfl
@[simp] theorem State.setEng_fatalCode (e : Engine) : (s.setEng e).fatalCode = s.fatalCode := rfl
@[simp] theorem State.setEng_cfg (e : Engine) : (s.setEng e).cfg = s.cfg := rfl
@[simp] theorem State.setEng_agenda (e : Engine) : (s.setEng e).agenda = s.agenda := rfl
@[simp] theorem State.setEng_schedCount (e : Engine) : (s.setEng e).schedCount = s.schedCount := rfl
@[simp] theorem State.setEng_openCount (e : Engine) : (s.setEng e).openCount = s.openCount := rfl
@[simp] theorem State.setEng_result (e : Engine) : (s.setEng e).result = s.result := rfl

@[simp] theorem State.setScanPos_bufs (n : Byte) : (s.setScanPos n).bufs = s.bufs := rfl
@[simp] theorem State.setScanPos_pkts (n : Byte) : (s.setScanPos n).pkts = s.pkts := rfl
@[simp] theorem State.setScanPos_pool (n : Byte) : (s.setScanPos n).pool = s.pool := rfl
@[simp] theorem State.setScanPos_eng (n : Byte) : (s.setScanPos n).eng = s.eng := rfl
@[simp] theorem State.setScanPos_latch (n : Byte) : (s.setScanPos n).latch = s.latch := rfl
@[simp] theorem State.setScanPos_packetsSent (n : Byte) : (s.setScanPos n).packetsSent = s.packetsSent := rfl
@[simp] theorem State.setScanPos_scanPos (n : Byte) : (s.setScanPos n).scanPos = n := rfl
@[simp] theorem State.setScanPos_history (n : Byte) : (s.setScanPos n).history = s.history := rfl
@[simp] theorem State.setScanPos_halted (n : Byte) : (s.setScanPos n).halted = s.halted := rfl
@[simp] theorem State.setScanPos_fatalCode (n : Byte) : (s.setScanPos n).fatalCode = s.fatalCode := rfl
@[simp] theorem State.setScanPos_cfg (n : Byte) : (s.setScanPos n).cfg = s.cfg := rfl
@[simp] theorem State.setScanPos_agenda (n : Byte) : (s.setScanPos n).agenda = s.agenda := rfl
@[simp] theorem State.setScanPos_schedCount (n : Byte) : (s.setScanPos n).schedCount = s.schedCount := rfl
@[simp] theorem State.setScanPos_openCount (n : Byte) : (s.setScanPos n).openCount = s.openCount := rfl
@[simp] theorem State.setScanPos_result (n : Byte) : (s.setScanPos n).result = s.result := rfl

@[simp] theorem State.setPacketsSent_bufs (n : Word) : (s.setPacketsSent n).bufs = s.bufs := rfl
@[simp] theorem State.setPacketsSent_pkts (n : Word) : (s.setPacketsSent n).pkts = s.pkts := rfl
@[simp] theorem State.setPacketsSent_pool (n : Word) : (s.setPacketsSent n).pool = s.pool := rfl
@[simp] theorem State.setPacketsSent_eng (n : Word) : (s.setPacketsSent n).eng = s.eng := rfl
@[simp] theorem State.setPacketsSent_latch (n : Word) : (s.setPacketsSent n).latch = s.latch := rfl
@[simp] theorem State.setPacketsSent_packetsSent (n : Word) : (s.setPacketsSent n).packetsSent = n := rfl
@[simp] theorem State.setPacketsSent_scanPos (n : Word) : (s.setPacketsSent n).scanPos = s.scanPos := rfl
@[simp] theorem State.setPacketsSent_history (n : Word) : (s.setPacketsSent n).history = s.history := rfl
@[simp] theorem State.setPacketsSent_halted (n : Word) : (s.setPacketsSent n).halted = s.halted := rfl
@[simp] theorem State.setPacketsSent_fatalCode (n : Word) : (s.setPacketsSent n).fatalCode = s.fatalCode := rfl
@[simp] theorem State.setPacketsSent_cfg (n : Word) : (s.setPacketsSent n).cfg = s.cfg := rfl
@[simp] theorem State.setPacketsSent_agenda (n : Word) : (s.setPacketsSent n).agenda = s.agenda := rfl
@[simp] theorem State.setPacketsSent_schedCount (n : Word) : (s.setPacketsSent n).schedCount = s.schedCount := rfl
@[simp] theorem State.setPacketsSent_openCount (n : Word) : (s.setPacketsSent n).openCount = s.openCount := rfl
@[simp] theorem State.setPacketsSent_result (n : Word) : (s.setPacketsSent n).result = s.result := rfl

@[simp] theorem State.setAgenda_bufs (l : List Input) : (s.setAgenda l).bufs = s.bufs := rfl
@[simp] theorem State.setAgenda_pkts (l : List Input) : (s.setAgenda l).pkts = s.pkts := rfl
@[simp] theorem State.setAgenda_pool (l : List Input) : (s.setAgenda l).pool = s.pool := rfl
@[simp] theorem State.setAgenda_eng (l : List Input) : (s.setAgenda l).eng = s.eng := rfl
@[simp] theorem State.setAgenda_latch (l : List Input) : (s.setAgenda l).latch = s.latch := rfl
@[simp] theorem State.setAgenda_packetsSent (l : List Input) : (s.setAgenda l).packetsSent = s.packetsSent := rfl
@[simp] theorem State.setAgenda_scanPos (l : List Input) : (s.setAgenda l).scanPos = s.scanPos := rfl
@[simp] theorem State.setAgenda_history (l : List Input) : (s.setAgenda l).history = s.history := rfl
@[simp] theorem State.setAgenda_halted (l : List Input) : (s.setAgenda l).halted = s.halted := rfl
@[simp] theorem State.setAgenda_fatalCode (l : List Input) : (s.setAgenda l).fatalCode = s.fatalCode := rfl
@[simp] theorem State.setAgenda_cfg (l : List Input) : (s.setAgenda l).cfg = s.cfg := rfl
@[simp] theorem State.setAgenda_agenda (l : List Input) : (s.setAgenda l).agenda = l := rfl
@[simp] theorem State.setAgenda_schedCount (l : List Input) : (s.setAgenda l).schedCount = s.schedCount := rfl
@[simp] theorem State.setAgenda_openCount (l : List Input) : (s.setAgenda l).openCount = s.openCount := rfl
@[simp] theorem State.setAgenda_result (l : List Input) : (s.setAgenda l).result = s.result := rfl

@[simp] theorem State.countChoice_bufs : s.countChoice.bufs = s.bufs := rfl
@[simp] theorem State.countChoice_pkts : s.countChoice.pkts = s.pkts := rfl
@[simp] theorem State.countChoice_pool : s.countChoice.pool = s.pool := rfl
@[simp] theorem State.countChoice_eng : s.countChoice.eng = s.eng := rfl
@[simp] theorem State.countChoice_latch : s.countChoice.latch = s.latch := rfl
@[simp] theorem State.countChoice_packetsSent : s.countChoice.packetsSent = s.packetsSent := rfl
@[simp] theorem State.countChoice_scanPos : s.countChoice.scanPos = s.scanPos := rfl
@[simp] theorem State.countChoice_history : s.countChoice.history = s.history := rfl
@[simp] theorem State.countChoice_halted : s.countChoice.halted = s.halted := rfl
@[simp] theorem State.countChoice_fatalCode : s.countChoice.fatalCode = s.fatalCode := rfl
@[simp] theorem State.countChoice_cfg : s.countChoice.cfg = s.cfg := rfl
@[simp] theorem State.countChoice_agenda : s.countChoice.agenda = s.agenda := rfl
@[simp] theorem State.countChoice_schedCount : s.countChoice.schedCount = s.schedCount + 1 := rfl
@[simp] theorem State.countChoice_openCount : s.countChoice.openCount = s.openCount := rfl
@[simp] theorem State.countChoice_result : s.countChoice.result = s.result := rfl

@[simp] theorem State.countOpen_bufs (n : Nat) : (s.countOpen n).bufs = s.bufs := rfl
@[simp] theorem State.countOpen_pkts (n : Nat) : (s.countOpen n).pkts = s.pkts := rfl
@[simp] theorem State.countOpen_pool (n : Nat) : (s.countOpen n).pool = s.pool := rfl
@[simp] theorem State.countOpen_eng (n : Nat) : (s.countOpen n).eng = s.eng := rfl
@[simp] theorem State.countOpen_latch (n : Nat) : (s.countOpen n).latch = s.latch := rfl
@[simp] theorem State.countOpen_packetsSent (n : Nat) : (s.countOpen n).packetsSent = s.packetsSent := rfl
@[simp] theorem State.countOpen_scanPos (n : Nat) : (s.countOpen n).scanPos = s.scanPos := rfl
@[simp] theorem State.countOpen_history (n : Nat) : (s.countOpen n).history = s.history := rfl
@[simp] theorem State.countOpen_halted (n : Nat) : (s.countOpen n).halted = s.halted := rfl
@[simp] theorem State.countOpen_fatalCode (n : Nat) : (s.countOpen n).fatalCode = s.fatalCode := rfl
@[simp] theorem State.countOpen_cfg (n : Nat) : (s.countOpen n).cfg = s.cfg := rfl
@[simp] theorem State.countOpen_agenda (n : Nat) : (s.countOpen n).agenda = s.agenda := rfl
@[simp] theorem State.countOpen_schedCount (n : Nat) : (s.countOpen n).schedCount = s.schedCount := rfl
@[simp] theorem State.countOpen_openCount (n : Nat) : (s.countOpen n).openCount = s.openCount + n := rfl
@[simp] theorem State.countOpen_result (n : Nat) : (s.countOpen n).result = s.result := rfl

@[simp] theorem State.setHistory_bufs (l : List Event) : (s.setHistory l).bufs = s.bufs := rfl
@[simp] theorem State.setHistory_pkts (l : List Event) : (s.setHistory l).pkts = s.pkts := rfl
@[simp] theorem State.setHistory_pool (l : List Event) : (s.setHistory l).pool = s.pool := rfl
@[simp] theorem State.setHistory_eng (l : List Event) : (s.setHistory l).eng = s.eng := rfl
@[simp] theorem State.setHistory_latch (l : List Event) : (s.setHistory l).latch = s.latch := rfl
@[simp] theorem State.setHistory_packetsSent (l : List Event) : (s.setHistory l).packetsSent = s.packetsSent := rfl
@[simp] theorem State.setHistory_scanPos (l : List Event) : (s.setHistory l).scanPos = s.scanPos := rfl
@[simp] theorem State.setHistory_history (l : List Event) : (s.setHistory l).history = l := rfl
@[simp] theorem State.setHistory_halted (l : List Event) : (s.setHistory l).halted = s.halted := rfl
@[simp] theorem State.setHistory_fatalCode (l : List Event) : (s.setHistory l).fatalCode = s.fatalCode := rfl
@[simp] theorem State.setHistory_cfg (l : List Event) : (s.setHistory l).cfg = s.cfg := rfl
@[simp] theorem State.setHistory_agenda (l : List Event) : (s.setHistory l).agenda = s.agenda := rfl
@[simp] theorem State.setHistory_schedCount (l : List Event) : (s.setHistory l).schedCount = s.schedCount := rfl
@[simp] theorem State.setHistory_openCount (l : List Event) : (s.setHistory l).openCount = s.openCount := rfl
@[simp] theorem State.setHistory_result (l : List Event) : (s.setHistory l).result = s.result := rfl

@[simp] theorem State.updBuf_bufs (h : Nat) (f : Buffer → Buffer) : (s.updBuf h f).bufs = s.bufs.modify h f := rfl
@[simp] theorem State.updBuf_pkts (h : Nat) (f : Buffer → Buffer) : (s.updBuf h f).pkts = s.pkts := rfl
@[simp] theorem State.updBuf_pool (h : Nat) (f : Buffer → Buffer) : (s.updBuf h f).pool = s.pool := rfl
@[simp] theorem State.updBuf_eng (h : Nat) (f : Buffer → Buffer) : (s.updBuf h f).eng = s.eng := rfl
@[simp] theorem State.updBuf_latch (h : Nat) (f : Buffer → Buffer) : (s.updBuf h f).latch = s.latch := rfl
@[simp] theorem State.updBuf_packetsSent (h : Nat) (f : Buffer → Buffer) : (s.updBuf h f).packetsSent = s.packetsSent := rfl
@[simp] theorem State.updBuf_scanPos (h : Nat) (f : Buffer → Buffer) : (s.updBuf h f).scanPos = s.scanPos := rfl
@[simp] theorem State.updBuf_history (h : Nat) (f : Buffer → Buffer) : (s.updBuf h f).history = s.history := rfl
@[simp] theorem State.updBuf_halted (h : Nat) (f : Buffer → Buffer) : (s.updBuf h f).halted = s.halted := rfl
@[simp] theorem State.updBuf_fatalCode (h : Nat) (f : Buffer → Buffer) : (s.updBuf h f).fatalCode = s.fatalCode := rfl
@[simp] theorem State.updBuf_cfg (h : Nat) (f : Buffer → Buffer) : (s.updBuf h f).cfg = s.cfg := rfl
@[simp] theorem State.updBuf_agenda (h : Nat) (f : Buffer → Buffer) : (s.updBuf h f).agenda = s.agenda := rfl
@[simp] theorem State.updBuf_schedCount (h : Nat) (f : Buffer → Buffer) : (s.updBuf h f).schedCount = s.schedCount := rfl
@[simp] theorem State.updBuf_openCount (h : Nat) (f : Buffer → Buffer) : (s.updBuf h f).openCount = s.openCount := rfl
@[simp] theorem State.updBuf_result (h : Nat) (f : Buffer → Buffer) : (s.updBuf h f).result = s.result := rfl

@[simp] theorem State.updPkt_bufs (p : Nat) (f : Packet → Packet) : (s.updPkt p f).bufs = s.bufs := rfl
@[simp] theorem State.updPkt_pkts (p : Nat) (f : Packet → Packet) : (s.updPkt p f).pkts = s.pkts.modify p f := rfl
@[simp] theorem State.updPkt_pool (p : Nat) (f : Packet → Packet) : (s.updPkt p f).pool = s.pool := rfl
@[simp] theorem State.updPkt_eng (p : Nat) (f : Packet → Packet) : (s.updPkt p f).eng = s.eng := rfl
@[simp] theorem State.updPkt_latch (p : Nat) (f : Packet → Packet) : (s.updPkt p f).latch = s.latch := rfl
@[simp] theorem State.updPkt_packetsSent (p : Nat) (f : Packet → Packet) : (s.updPkt p f).packetsSent = s.packetsSent := rfl
@[simp] theorem State.updPkt_scanPos (p : Nat) (f : Packet → Packet) : (s.updPkt p f).scanPos = s.scanPos := rfl
@[simp] theorem State.updPkt_history (p : Nat) (f : Packet → Packet) : (s.updPkt p f).history = s.history := rfl
@[simp] theorem State.updPkt_halted (p : Nat) (f : Packet → Packet) : (s.updPkt p f).halted = s.halted := rfl
@[simp] theorem State.updPkt_fatalCode (p : Nat) (f : Packet → Packet) : (s.updPkt p f).fatalCode = s.fatalCode := rfl
@[simp] theorem State.updPkt_cfg (p : Nat) (f : Packet → Packet) : (s.updPkt p f).cfg = s.cfg := rfl
@[simp] theorem State.updPkt_agenda (p : Nat) (f : Packet → Packet) : (s.updPkt p f).agenda = s.agenda := rfl
@[simp] theorem State.updPkt_schedCount (p : Nat) (f : Packet → Packet) : (s.updPkt p f).schedCount = s.schedCount := rfl
@[simp] theorem State.updPkt_openCount (p : Nat) (f : Packet → Packet) : (s.updPkt p f).openCount = s.openCount := rfl
@[simp] theorem State.updPkt_result (p : Nat) (f : Packet → Packet) : (s.updPkt p f).result = s.result := rfl

@[simp] theorem State.emit_bufs (e : Event) : (s.emit e).bufs = s.bufs := rfl
@[simp] theorem State.emit_pkts (e : Event) : (s.emit e).pkts = s.pkts := rfl
@[simp] theorem State.emit_pool (e : Event) : (s.emit e).pool = s.pool := rfl
@[simp] theorem State.emit_eng (e : Event) : (s.emit e).eng = s.eng := rfl
@[simp] theorem State.emit_latch (e : Event) : (s.emit e).latch = s.latch := rfl
@[simp] theorem State.emit_packetsSent (e : Event) : (s.emit e).packetsSent = s.packetsSent := rfl
@[simp] theorem State.emit_scanPos (e : Event) : (s.emit e).scanPos = s.scanPos := rfl
@[simp] theorem State.emit_history (e : Event) : (s.emit e).history = s.history ++ [e] := rfl
@[simp] theorem State.emit_halted (e : Event) : (s.emit e).halted = s.halted := rfl
@[simp] theorem State.emit_fatalCode (e : Event) : (s.emit e).fatalCode = s.fatalCode := rfl
@[simp] theorem State.emit_cfg (e : Event) : (s.emit e).cfg = s.cfg := rfl
@[simp] theorem State.emit_agenda (e : Event) : (s.emit e).agenda = s.agenda := rfl
@[simp] theorem State.emit_schedCount (e : Event) : (s.emit e).schedCount = s.schedCount := rfl
@[simp] theorem State.emit_openCount (e : Event) : (s.emit e).openCount = s.openCount := rfl
@[simp] theorem State.emit_result (e : Event) : (s.emit e).result = s.result := rfl

@[simp] theorem State.fatalEntry_bufs (c : FatalCode) : (s.fatalEntry c).bufs = s.bufs := rfl
@[simp] theorem State.fatalEntry_pkts (c : FatalCode) : (s.fatalEntry c).pkts = s.pkts := rfl
@[simp] theorem State.fatalEntry_pool (c : FatalCode) : (s.fatalEntry c).pool = s.pool := rfl
@[simp] theorem State.fatalEntry_eng (c : FatalCode) : (s.fatalEntry c).eng = s.eng := rfl
@[simp] theorem State.fatalEntry_latch (c : FatalCode) : (s.fatalEntry c).latch = s.latch := rfl
@[simp] theorem State.fatalEntry_packetsSent (c : FatalCode) : (s.fatalEntry c).packetsSent = s.packetsSent := rfl
@[simp] theorem State.fatalEntry_scanPos (c : FatalCode) : (s.fatalEntry c).scanPos = s.scanPos := rfl
@[simp] theorem State.fatalEntry_history (c : FatalCode) : (s.fatalEntry c).history = s.history ++ [.fatal c] := rfl
@[simp] theorem State.fatalEntry_halted (c : FatalCode) : (s.fatalEntry c).halted = true := rfl
@[simp] theorem State.fatalEntry_fatalCode (c : FatalCode) : (s.fatalEntry c).fatalCode = c.code := rfl
@[simp] theorem State.fatalEntry_cfg (c : FatalCode) : (s.fatalEntry c).cfg = s.cfg := rfl
@[simp] theorem State.fatalEntry_agenda (c : FatalCode) : (s.fatalEntry c).agenda = s.agenda := rfl
@[simp] theorem State.fatalEntry_schedCount (c : FatalCode) : (s.fatalEntry c).schedCount = s.schedCount := rfl
@[simp] theorem State.fatalEntry_openCount (c : FatalCode) : (s.fatalEntry c).openCount = s.openCount := rfl
@[simp] theorem State.fatalEntry_result (c : FatalCode) : (s.fatalEntry c).result = s.result := rfl

@[simp] theorem State.pushFree_bufs (h : Nat) : (s.pushFree h).bufs = s.bufs.modify h fun b => { b with fnext := s.pool.freeHead } := rfl
@[simp] theorem State.pushFree_pkts (h : Nat) : (s.pushFree h).pkts = s.pkts := rfl
@[simp] theorem State.pushFree_pool (h : Nat) : (s.pushFree h).pool = { s.pool with freeHead := some h } := rfl
@[simp] theorem State.pushFree_eng (h : Nat) : (s.pushFree h).eng = s.eng := rfl
@[simp] theorem State.pushFree_latch (h : Nat) : (s.pushFree h).latch = s.latch := rfl
@[simp] theorem State.pushFree_packetsSent (h : Nat) : (s.pushFree h).packetsSent = s.packetsSent := rfl
@[simp] theorem State.pushFree_scanPos (h : Nat) : (s.pushFree h).scanPos = s.scanPos := rfl
@[simp] theorem State.pushFree_history (h : Nat) : (s.pushFree h).history = s.history := rfl
@[simp] theorem State.pushFree_halted (h : Nat) : (s.pushFree h).halted = s.halted := rfl
@[simp] theorem State.pushFree_fatalCode (h : Nat) : (s.pushFree h).fatalCode = s.fatalCode := rfl
@[simp] theorem State.pushFree_cfg (h : Nat) : (s.pushFree h).cfg = s.cfg := rfl
@[simp] theorem State.pushFree_agenda (h : Nat) : (s.pushFree h).agenda = s.agenda := rfl
@[simp] theorem State.pushFree_schedCount (h : Nat) : (s.pushFree h).schedCount = s.schedCount := rfl
@[simp] theorem State.pushFree_openCount (h : Nat) : (s.pushFree h).openCount = s.openCount := rfl
@[simp] theorem State.pushFree_result (h : Nat) : (s.pushFree h).result = s.result := rfl

@[simp] theorem State.pushPfree_bufs (p : Nat) : (s.pushPfree p).bufs = s.bufs := rfl
@[simp] theorem State.pushPfree_pkts (p : Nat) : (s.pushPfree p).pkts = s.pkts.modify p fun k => { k with next := s.pool.pfreeHead } := rfl
@[simp] theorem State.pushPfree_pool (p : Nat) : (s.pushPfree p).pool = { s.pool with pfreeHead := some p } := rfl
@[simp] theorem State.pushPfree_eng (p : Nat) : (s.pushPfree p).eng = s.eng := rfl
@[simp] theorem State.pushPfree_latch (p : Nat) : (s.pushPfree p).latch = s.latch := rfl
@[simp] theorem State.pushPfree_packetsSent (p : Nat) : (s.pushPfree p).packetsSent = s.packetsSent := rfl
@[simp] theorem State.pushPfree_scanPos (p : Nat) : (s.pushPfree p).scanPos = s.scanPos := rfl
@[simp] theorem State.pushPfree_history (p : Nat) : (s.pushPfree p).history = s.history := rfl
@[simp] theorem State.pushPfree_halted (p : Nat) : (s.pushPfree p).halted = s.halted := rfl
@[simp] theorem State.pushPfree_fatalCode (p : Nat) : (s.pushPfree p).fatalCode = s.fatalCode := rfl
@[simp] theorem State.pushPfree_cfg (p : Nat) : (s.pushPfree p).cfg = s.cfg := rfl
@[simp] theorem State.pushPfree_agenda (p : Nat) : (s.pushPfree p).agenda = s.agenda := rfl
@[simp] theorem State.pushPfree_schedCount (p : Nat) : (s.pushPfree p).schedCount = s.schedCount := rfl
@[simp] theorem State.pushPfree_openCount (p : Nat) : (s.pushPfree p).openCount = s.openCount := rfl
@[simp] theorem State.pushPfree_result (p : Nat) : (s.pushPfree p).result = s.result := rfl

@[simp] theorem State.fireReply_bufs (h : Nat) (w : Word) : (s.fireReply h w).bufs = s.bufs.modify h fun b => { b with replyWhen := .never } := rfl
@[simp] theorem State.fireReply_pkts (h : Nat) (w : Word) : (s.fireReply h w).pkts = s.pkts := rfl
@[simp] theorem State.fireReply_pool (h : Nat) (w : Word) : (s.fireReply h w).pool = s.pool := rfl
@[simp] theorem State.fireReply_eng (h : Nat) (w : Word) : (s.fireReply h w).eng = s.eng := rfl
@[simp] theorem State.fireReply_latch (h : Nat) (w : Word) : (s.fireReply h w).latch = s.latch := rfl
@[simp] theorem State.fireReply_packetsSent (h : Nat) (w : Word) : (s.fireReply h w).packetsSent = s.packetsSent := rfl
@[simp] theorem State.fireReply_scanPos (h : Nat) (w : Word) : (s.fireReply h w).scanPos = s.scanPos := rfl
@[simp] theorem State.fireReply_history (h : Nat) (w : Word) : (s.fireReply h w).history = s.history ++ [.reply w] := rfl
@[simp] theorem State.fireReply_halted (h : Nat) (w : Word) : (s.fireReply h w).halted = s.halted := rfl
@[simp] theorem State.fireReply_fatalCode (h : Nat) (w : Word) : (s.fireReply h w).fatalCode = s.fatalCode := rfl
@[simp] theorem State.fireReply_cfg (h : Nat) (w : Word) : (s.fireReply h w).cfg = s.cfg := rfl
@[simp] theorem State.fireReply_agenda (h : Nat) (w : Word) : (s.fireReply h w).agenda = s.agenda := rfl
@[simp] theorem State.fireReply_schedCount (h : Nat) (w : Word) : (s.fireReply h w).schedCount = s.schedCount := rfl
@[simp] theorem State.fireReply_openCount (h : Nat) (w : Word) : (s.fireReply h w).openCount = s.openCount := rfl
@[simp] theorem State.fireReply_result (h : Nat) (w : Word) : (s.fireReply h w).result = s.result := rfl

@[simp] theorem State.answer_bufs (st : Status) (l : List Byte) : (s.answer st l).bufs = s.bufs := rfl
@[simp] theorem State.answer_pkts (st : Status) (l : List Byte) : (s.answer st l).pkts = s.pkts := rfl
@[simp] theorem State.answer_pool (st : Status) (l : List Byte) : (s.answer st l).pool = s.pool := rfl
@[simp] theorem State.answer_eng (st : Status) (l : List Byte) : (s.answer st l).eng = s.eng := rfl
@[simp] theorem State.answer_latch (st : Status) (l : List Byte) : (s.answer st l).latch = s.latch := rfl
@[simp] theorem State.answer_packetsSent (st : Status) (l : List Byte) : (s.answer st l).packetsSent = s.packetsSent := rfl
@[simp] theorem State.answer_scanPos (st : Status) (l : List Byte) : (s.answer st l).scanPos = s.scanPos := rfl
@[simp] theorem State.answer_history (st : Status) (l : List Byte) : (s.answer st l).history = s.history := rfl
@[simp] theorem State.answer_halted (st : Status) (l : List Byte) : (s.answer st l).halted = s.halted := rfl
@[simp] theorem State.answer_fatalCode (st : Status) (l : List Byte) : (s.answer st l).fatalCode = s.fatalCode := rfl
@[simp] theorem State.answer_cfg (st : Status) (l : List Byte) : (s.answer st l).cfg = s.cfg := rfl
@[simp] theorem State.answer_agenda (st : Status) (l : List Byte) : (s.answer st l).agenda = s.agenda := rfl
@[simp] theorem State.answer_schedCount (st : Status) (l : List Byte) : (s.answer st l).schedCount = s.schedCount := rfl
@[simp] theorem State.answer_openCount (st : Status) (l : List Byte) : (s.answer st l).openCount = s.openCount := rfl
@[simp] theorem State.answer_result (st : Status) (l : List Byte) : (s.answer st l).result = st.code :: l := rfl

@[simp] theorem State.release_bufs : s.release.bufs = s.bufs := rfl
@[simp] theorem State.release_pkts : s.release.pkts = s.pkts := rfl
@[simp] theorem State.release_pool : s.release.pool = s.pool := rfl
@[simp] theorem State.release_eng : s.release.eng = s.eng := rfl
@[simp] theorem State.release_latch : s.release.latch = true := rfl
@[simp] theorem State.release_packetsSent : s.release.packetsSent = s.packetsSent := rfl
@[simp] theorem State.release_scanPos : s.release.scanPos = s.scanPos := rfl
@[simp] theorem State.release_history : s.release.history = s.history := rfl
@[simp] theorem State.release_halted : s.release.halted = s.halted := rfl
@[simp] theorem State.release_fatalCode : s.release.fatalCode = s.fatalCode := rfl
@[simp] theorem State.release_cfg : s.release.cfg = s.cfg := rfl
@[simp] theorem State.release_agenda : s.release.agenda = s.agenda := rfl
@[simp] theorem State.release_schedCount : s.release.schedCount = s.schedCount := rfl
@[simp] theorem State.release_openCount : s.release.openCount = s.openCount := rfl
@[simp] theorem State.release_result : s.release.result = s.result := rfl

@[simp] theorem State.consume_bufs : s.consume.bufs = s.bufs := rfl
@[simp] theorem State.consume_pkts : s.consume.pkts = s.pkts := rfl
@[simp] theorem State.consume_pool : s.consume.pool = s.pool := rfl
@[simp] theorem State.consume_eng : s.consume.eng = s.eng := rfl
@[simp] theorem State.consume_latch : s.consume.latch = false := rfl
@[simp] theorem State.consume_packetsSent : s.consume.packetsSent = s.packetsSent := rfl
@[simp] theorem State.consume_scanPos : s.consume.scanPos = s.scanPos := rfl
@[simp] theorem State.consume_history : s.consume.history = s.history := rfl
@[simp] theorem State.consume_halted : s.consume.halted = s.halted := rfl
@[simp] theorem State.consume_fatalCode : s.consume.fatalCode = s.fatalCode := rfl
@[simp] theorem State.consume_cfg : s.consume.cfg = s.cfg := rfl
@[simp] theorem State.consume_agenda : s.consume.agenda = s.agenda := rfl
@[simp] theorem State.consume_schedCount : s.consume.schedCount = s.schedCount := rfl
@[simp] theorem State.consume_openCount : s.consume.openCount = s.openCount := rfl
@[simp] theorem State.consume_result : s.consume.result = s.result := rfl

@[simp] theorem State.toggleTrack_bufs : s.toggleTrack.bufs = s.bufs := rfl
@[simp] theorem State.toggleTrack_pkts : s.toggleTrack.pkts = s.pkts := rfl
@[simp] theorem State.toggleTrack_pool : s.toggleTrack.pool = s.pool := rfl
@[simp] theorem State.toggleTrack_eng : s.toggleTrack.eng = { s.eng with track := !s.eng.track } := rfl
@[simp] theorem State.toggleTrack_latch : s.toggleTrack.latch = s.latch := rfl
@[simp] theorem State.toggleTrack_packetsSent : s.toggleTrack.packetsSent = s.packetsSent := rfl
@[simp] theorem State.toggleTrack_scanPos : s.toggleTrack.scanPos = s.scanPos := rfl
@[simp] theorem State.toggleTrack_history : s.toggleTrack.history = s.history := rfl
@[simp] theorem State.toggleTrack_halted : s.toggleTrack.halted = s.halted := rfl
@[simp] theorem State.toggleTrack_fatalCode : s.toggleTrack.fatalCode = s.fatalCode := rfl
@[simp] theorem State.toggleTrack_cfg : s.toggleTrack.cfg = s.cfg := rfl
@[simp] theorem State.toggleTrack_agenda : s.toggleTrack.agenda = s.agenda := rfl
@[simp] theorem State.toggleTrack_schedCount : s.toggleTrack.schedCount = s.schedCount := rfl
@[simp] theorem State.toggleTrack_openCount : s.toggleTrack.openCount = s.openCount := rfl
@[simp] theorem State.toggleTrack_result : s.toggleTrack.result = s.result := rfl

@[simp] theorem State.startBit_bufs : s.startBit.bufs = s.bufs := rfl
@[simp] theorem State.startBit_pkts : s.startBit.pkts = s.pkts := rfl
@[simp] theorem State.startBit_pool : s.startBit.pool = s.pool := rfl
@[simp] theorem State.startBit_eng : s.startBit.eng = { s.eng with half := 2, cmp := halfBitTicks s.cfg s.eng.bitval } := rfl
@[simp] theorem State.startBit_latch : s.startBit.latch = s.latch := rfl
@[simp] theorem State.startBit_packetsSent : s.startBit.packetsSent = s.packetsSent := rfl
@[simp] theorem State.startBit_scanPos : s.startBit.scanPos = s.scanPos := rfl
@[simp] theorem State.startBit_history : s.startBit.history = s.history := rfl
@[simp] theorem State.startBit_halted : s.startBit.halted = s.halted := rfl
@[simp] theorem State.startBit_fatalCode : s.startBit.fatalCode = s.fatalCode := rfl
@[simp] theorem State.startBit_cfg : s.startBit.cfg = s.cfg := rfl
@[simp] theorem State.startBit_agenda : s.startBit.agenda = s.agenda := rfl
@[simp] theorem State.startBit_schedCount : s.startBit.schedCount = s.schedCount := rfl
@[simp] theorem State.startBit_openCount : s.startBit.openCount = s.openCount := rfl
@[simp] theorem State.startBit_result : s.startBit.result = s.result := rfl

/-- Clearing the output port changes nothing else. -/
theorem State.clearResult_of_empty (h : s.result = []) : s.clearResult = s := by
  cases s; cases h; rfl

end Sys2Proof.Machine
end

