-- ==== Sys2Proof/Laws/Ops.lean ====
section
/-! SUPPORT. One lemma per shared operation: everything it can do when it answers. -/

namespace Sys2Proof.Machine

/-! Attempts. -/

theorem Attempt.bind_eq_ok {α β : Type} {x : Attempt α} {f : α → Attempt β} {b : β} :
    (x >>= f) = .ok b ↔ ∃ a, x = .ok a ∧ f a = .ok b := by
  cases x <;> simp [bind, Except.bind]

theorem Attempt.bind_eq_error {α β : Type} {x : Attempt α} {f : α → Attempt β} {e : Stop} :
    (x >>= f) = .error e ↔ x = .error e ∨ ∃ a, x = .ok a ∧ f a = .error e := by
  cases x <;> simp [bind, Except.bind]

@[simp] theorem Attempt.pure_eq_ok {α : Type} {a b : α} : (pure a : Attempt α) = .ok b ↔ b = a := by
  simp [pure, Except.pure, eq_comm]

@[simp] theorem Attempt.pure_ne_error {α : Type} {a : α} {e : Stop} : ((pure a : Attempt α) = .error e) ↔ False := by
  simp [pure, Except.pure]

@[simp] theorem raise_ne_ok {α : Type} {c : FatalCode} {a : α} : ((raise c : Attempt α) = .ok a) ↔ False := by
  simp [raise]

@[simp] theorem raise_eq_error {α : Type} {c : FatalCode} {e : Stop} : (raise c : Attempt α) = .error e ↔ .fatal c = e := by
  simp [raise]

/-! Steps. -/

/-- What a step that answers a next state did: its body ran to the end, or a fatal fault was taken. -/
theorem runStep_eq_next {s t : State} {body : State → Attempt State} :
    runStep s body = .next t ↔ s.halted = false ∧
      (body s.clearResult = .ok t ∨
        ∃ c, body s.clearResult = .error (.fatal c) ∧ t = s.clearResult.fatalEntry c) := by
  unfold runStep settle
  cases hh : s.halted <;> simp only [Bool.false_eq_true, if_true, if_false, false_and, true_and, reduceCtorEq]
  cases hb : body s.clearResult with
  | ok u => simp
  | error e =>
    cases e with
    | fatal c => simp [eq_comm]
    | model f => simp

theorem runStep_of_ok {s t : State} {body : State → Attempt State} (hs : s.halted = false)
    (hb : body s.clearResult = .ok t) : runStep s body = .next t :=
  runStep_eq_next.2 ⟨hs, .inl hb⟩

theorem runStep_of_fatal {s : State} {c : FatalCode} {body : State → Attempt State} (hs : s.halted = false)
    (hb : body s.clearResult = .error (.fatal c)) :
    runStep s body = .next (s.clearResult.fatalEntry c) :=
  runStep_eq_next.2 ⟨hs, .inr ⟨c, hb, rfl⟩⟩

theorem runStep_halted {s : State} {body : State → Attempt State} (hs : s.halted = true) :
    runStep s body = .fault .halted := by
  simp [runStep, hs]

/-! Reads. -/

/-- Every buffer state has a code of its own (R10). -/
theorem BufState.code_injective {a b : BufState} (h : a.code = b.code) : a = b := by
  cases a <;> cases b <;> first | rfl | exact absurd h (by decide)

@[simp] theorem State.buf_eq_ok {s : State} {h : Nat} {b : Buffer} : s.buf h = .ok b ↔ s.bufs[h]? = some b := by
  unfold State.buf
  cases s.bufs[h]? <;> simp

@[simp] theorem State.pkt_eq_ok {s : State} {p : Nat} {k : Packet} : s.pkt p = .ok k ↔ s.pkts[p]? = some k := by
  unfold State.pkt
  cases s.pkts[p]? <;> simp

@[simp] theorem handleOf_eq_ok {l : Option Nat} {h : Nat} : handleOf l = .ok h ↔ l = some h := by
  cases l <;> simp [handleOf]

@[simp] theorem expectState_eq_ok {c : Bool} {u : Unit} : expectState c = .ok u ↔ c = true := by
  cases c <;> simp [expectState]

@[simp] theorem expectLive_eq_ok {b : Buffer} {u : Unit} : expectLive b = .ok u ↔ b.state.live = true := by
  unfold expectLive
  cases b.state <;> simp [BufState.live]

/-- A record whose bytes all hold a value has none absent (R33). -/
theorem Packet.absent_of_le {k : Packet} (h : k.len.toNat ≤ k.bytes.length) : k.absent = 0 := Nat.sub_eq_zero_of_le h

/-- The command of a record whose bytes all hold a value reads no free value (R136). -/
theorem State.command_of_le {s : State} {k : Packet} (h : k.len.toNat ≤ k.bytes.length) :
    s.command k = k.bytes.take k.len.toNat := by
  simp [State.command, Packet.absent_of_le h]

/-- A command is as long as its record says (R33, R136). -/
@[simp] theorem State.command_length {s : State} {k : Packet} : (s.command k).length = k.len.toNat := by
  simp only [State.command, Packet.absent, List.length_append, List.length_take, List.length_map, List.length_range]
  omega

/-- Reading no free value changes nothing. -/
@[simp] theorem State.countOpen_zero {s : State} : s.countOpen 0 = s := rfl

/-! Writes. -/

@[simp] theorem State.bufs_updBuf_getElem? {s : State} {h j : Nat} {f : Buffer → Buffer} :
    (s.bufs.modify h f)[j]? = if h = j then s.bufs[j]?.map f else s.bufs[j]? := by
  rw [List.getElem?_modify]
  split <;> simp

@[simp] theorem State.pkts_updPkt_getElem? {s : State} {p j : Nat} {f : Packet → Packet} :
    (s.pkts.modify p f)[j]? = if p = j then s.pkts[j]?.map f else s.pkts[j]? := by
  rw [List.getElem?_modify]
  split <;> simp

/-- A write of a record that is there sets it. -/
theorem modify_eq_set {α : Type} {l : List α} {h : Nat} {b : α} {f : α → α} (hb : l[h]? = some b) :
    l.modify h f = l.set h (f b) := by
  obtain ⟨hl, rfl⟩ := List.getElem?_eq_some_iff.1 hb
  apply List.ext_getElem?
  intro j
  rw [List.getElem?_modify, List.getElem?_set]
  by_cases hj : h = j
  · subst hj
    simp [hl]
  · simp [hj]

/-- A write over a record just set. -/
@[simp] theorem set_modify_same {α : Type} {l : List α} {h : Nat} {b : α} {f : α → α} :
    (l.set h b).modify h f = l.set h (f b) := by
  by_cases hl : h < l.length
  · rw [modify_eq_set (b := b) (by simp [hl]), List.set_set]
  · rw [List.set_eq_of_length_le (by omega), List.set_eq_of_length_le (by omega)]
    exact List.modify_eq_self (by omega)

/-- POP_FREE answers (R130). -/
theorem State.popFree_eq_ok {s t : State} {h : Nat} :
    s.popFree = .ok (h, t) ↔ s.pool.freeHead = some h ∧ ∃ b, s.bufs[h]? = some b ∧ b.state = .empty ∧
      t = (s.setFreeHead b.fnext).updBuf h fun b => { b with fnext := none } := by
  simp only [State.popFree, Attempt.bind_eq_ok, Attempt.pure_eq_ok, handleOf_eq_ok, State.buf_eq_ok, expectState_eq_ok,
    beq_iff_eq, Prod.mk.injEq]
  constructor
  · rintro ⟨a, ha, b, hb, u, hu, rfl, rfl⟩
    exact ⟨ha, b, hb, hu, rfl⟩
  · rintro ⟨ha, b, hb, hu, rfl⟩
    exact ⟨h, ha, b, hb, (), hu, rfl, rfl⟩

/-- POP_PFREE answers (R131). -/
theorem State.popPfree_eq_ok {s t : State} {p : Nat} :
    s.popPfree = .ok (p, t) ↔ s.pool.pfreeHead = some p ∧ ∃ k, s.pkts[p]? = some k ∧
      t = (s.setPfreeHead k.next).updPkt p fun k => { k with next := none } := by
  simp only [State.popPfree, Attempt.bind_eq_ok, Attempt.pure_eq_ok, handleOf_eq_ok, State.pkt_eq_ok, Prod.mk.injEq]
  constructor
  · rintro ⟨a, ha, k, hk, rfl, rfl⟩
    exact ⟨ha, k, hk, rfl⟩
  · rintro ⟨ha, k, hk, rfl⟩
    exact ⟨p, ha, k, hk, rfl, rfl⟩

/-- LINK_AFTER answers (R133). -/
theorem State.linkAfter_eq_ok {s t : State} {c h : Nat} :
    s.linkAfter c h = .ok t ↔ ∃ bc n bn, s.bufs[c]? = some bc ∧ bc.next = some n ∧ s.bufs[n]? = some bn ∧
      t = (((s.updBuf h fun b => { b with next := some n, prev := some c }).updBuf n fun b => { b with prev := some h }).updBuf
        c fun b => { b with next := some h }).updBuf h fun b => { b with linked := true } := by
  simp only [State.linkAfter, Attempt.bind_eq_ok, Attempt.pure_eq_ok, handleOf_eq_ok, State.buf_eq_ok]
  constructor
  · rintro ⟨bc, h1, n, h2, bn, h3, rfl⟩
    exact ⟨bc, n, bn, h1, h2, h3, rfl⟩
  · rintro ⟨bc, n, bn, h1, h2, h3, rfl⟩
    exact ⟨bc, h1, n, h2, bn, h3, rfl⟩

/-- UNLINK answers (R134). -/
theorem State.unlink_eq_ok {s t : State} {h : Nat} :
    s.unlink h = .ok t ↔ ∃ b pv nx bp bn, s.bufs[h]? = some b ∧ b.prev = some pv ∧ b.next = some nx ∧
      s.bufs[pv]? = some bp ∧ s.bufs[nx]? = some bn ∧
      t = ((s.updBuf pv fun b => { b with next := some nx }).updBuf nx fun b => { b with prev := some pv }).updBuf h fun b =>
        { b with next := none, prev := none, linked := false } := by
  simp only [State.unlink, Attempt.bind_eq_ok, Attempt.pure_eq_ok, handleOf_eq_ok, State.buf_eq_ok]
  constructor
  · rintro ⟨b, h1, pv, h2, nx, h3, bp, h4, bn, h5, rfl⟩
    exact ⟨b, pv, nx, bp, bn, h1, h2, h3, h4, h5, rfl⟩
  · rintro ⟨b, pv, nx, bp, bn, h1, h2, h3, h4, h5, rfl⟩
    exact ⟨b, h1, pv, h2, nx, h3, bp, h4, bn, h5, rfl⟩

/-- The state LOAD_HEAD leaves (R136): record `p` of buffer `h`, whose bytes are encoded as `a`. -/
def State.loaded (s : State) (h p : Nat) (b : Buffer) (k : Packet) (a : List Nat) : State :=
  let s := (s.countOpen k.absent).updBuf h fun b =>
    { b with arr := a, repeatCount := k.dur, phead := k.next, ptail := if k.next = none then none else b.ptail }
  let s := s.pushPfree p
  let s := if k.next = none ∧ b.replyWhen = .atStart then s.fireReply h b.replyToken else s
  s.updBuf h fun b => { b with state := .run }

/-- LOAD_HEAD answers (R136). -/
theorem State.loadHead_eq_ok {s t : State} {h : Nat} :
    s.loadHead h = .ok t ↔ ∃ b p k a, s.bufs[h]? = some b ∧ b.state = .load ∧ b.phead = some p ∧ s.pkts[p]? = some k ∧
      encodePacket s.cfg (s.command k) k.pre.toNat k.post.toNat = .ok a ∧ t = s.loaded h p b k a := by
  simp only [State.loadHead, Attempt.bind_eq_ok, handleOf_eq_ok, State.buf_eq_ok, State.pkt_eq_ok, expectState_eq_ok,
    beq_iff_eq]
  constructor
  · rintro ⟨b, h1, u, h2, p, h3, k, h4, h6⟩
    split at h6
    · rename_i a ha
      rw [Attempt.pure_eq_ok] at h6
      exact ⟨b, p, k, a, h1, h2, h3, h4, ha, h6⟩
    · simp at h6
  · rintro ⟨b, p, k, a, h1, h2, h3, h4, h6, rfl⟩
    refine ⟨b, h1, (), h2, p, h3, k, h4, ?_⟩
    rw [h6]
    rfl

/-- RELEASE_QUEUE answers (R132). -/
theorem State.releaseQueue_eq_ok {s t : State} {h : Nat} :
    s.releaseQueue h = .ok t ↔ ∃ b u, s.bufs[h]? = some b ∧ releaseFrom (2 * s.pkts.length) b.phead s = .ok u ∧
      t = u.updBuf h fun b => { b with phead := none, ptail := none } := by
  simp only [State.releaseQueue, Attempt.bind_eq_ok, Attempt.pure_eq_ok, State.buf_eq_ok]
  constructor
  · rintro ⟨b, h1, u, h2, rfl⟩
    exact ⟨b, u, h1, h2, rfl⟩
  · rintro ⟨b, u, h1, h2, rfl⟩
    exact ⟨b, h1, u, h2, rfl⟩

/-- One turn of RELEASE_QUEUE's loop. -/
theorem releaseFrom_cons {n p : Nat} {s t : State} :
    releaseFrom (n + 1) (some p) s = .ok t ↔ ∃ k, s.pkts[p]? = some k ∧ releaseFrom n k.next (s.pushPfree p) = .ok t := by
  simp only [releaseFrom, Attempt.bind_eq_ok, State.pkt_eq_ok]

/-- RELEASE_QUEUE's loop writes pending records and the pending free list only. -/
theorem releaseFrom_frame {n : Nat} {l : Option Nat} {s t : State} (ht : releaseFrom n l s = .ok t) :
    t = { s with pkts := t.pkts, pool := { s.pool with pfreeHead := t.pool.pfreeHead } } ∧ t.pkts.length = s.pkts.length := by
  induction n generalizing l s with
  | zero =>
    cases l with
    | none => simp [releaseFrom] at ht; subst ht; simp
    | some p =>
      simp only [releaseFrom, Attempt.bind_eq_ok] at ht
      obtain ⟨_, _, h⟩ := ht
      cases h
  | succ n ih =>
    cases l with
    | none => simp [releaseFrom] at ht; subst ht; simp
    | some p =>
      obtain ⟨k, hk, ht⟩ := releaseFrom_cons.1 ht
      obtain ⟨h1, h2⟩ := ih ht
      refine ⟨?_, by simpa using h2⟩
      rw [h1]
      rfl

end Sys2Proof.Machine
end

