-- ==== Sys2Proof/Laws/Commands.lean ====
section
/-! SUPPORT. One lemma per host command: everything its operation on parsed operands can answer. -/

namespace Sys2Proof.Machine

/-- ACQUIRE's overwrite path answers. -/
theorem State.reuse_eq_ok {s : State} {h : Nat} {action : Word} {r : Reply} :
    s.reuse h action = .ok r ↔ ∃ u, s.releaseQueue h = .ok u ∧
      r = { status := .ok, handle := some h,
            state := u.updBuf h fun b => { b with replyWhen := .never, action := action, isOpen := true } } := by
  simp only [State.reuse, Attempt.bind_eq_ok, Attempt.pure_eq_ok]

/-- ACQUIRE's new-buffer path answers. -/
theorem State.allocate_eq_ok {s : State} {pol : Polarity} {addr action : Word} {r : Reply} :
    s.allocate pol addr action = .ok r ↔
      (s.pool.freeHead = none ∧ r = s.exhausted .noBuffer) ∨
      (∃ h u, s.popFree = .ok (h, u) ∧
        r = { status := .ok, handle := some h,
              state := u.updBuf h fun b =>
                { b with state := .load, addr := addr, pol := pol, action := action, repeatCount := 0, phead := none,
                         ptail := none, replyWhen := .never, replyToken := 0, linked := false, isOpen := true } }) := by
  unfold State.allocate
  split
  · rename_i hn
    have hp : ∀ h u, s.popFree ≠ .ok (h, u) := by
      intro h u hc
      rw [State.popFree_eq_ok, hn] at hc
      simp at hc
    simp [hn, hp]
  · rename_i hn
    simp only [Attempt.bind_eq_ok, Attempt.pure_eq_ok, Prod.exists, hn, false_and, false_or]

/-- ACQUIRE answers (R140). -/
theorem State.acquire_eq_ok {s : State} {pol : Polarity} {addr action : Word} {ow : Bool} {r : Reply} :
    s.acquire pol addr action ow = .ok r ↔
      (addressInRange pol addr = false ∧ r = s.rejected .badArg) ∨
      (addressInRange pol addr = true ∧ ow = true ∧ ∃ h, s.findLive addr pol = .ok (some h) ∧ s.reuse h action = .ok r) ∨
      (addressInRange pol addr = true ∧ (ow = true → s.findLive addr pol = .ok none) ∧
        s.allocate pol addr action = .ok r) := by
  unfold State.acquire
  cases hr : addressInRange pol addr
  · simp
  · cases ow
    · simp [State.overwriteTarget]
    · simp only [State.overwriteTarget, Bool.not_true, Bool.false_eq_true, if_false, if_true, Attempt.bind_eq_ok, reduceCtorEq, false_and, false_or,
        true_and, forall_const]
      constructor
      · rintro ⟨l, hl, hr⟩
        cases l with
        | none => exact .inr ⟨hl, hr⟩
        | some h => exact .inl ⟨h, hl, hr⟩
      · rintro (⟨h, hl, hr⟩ | ⟨hl, hr⟩)
        · exact ⟨_, hl, hr⟩
        · exact ⟨_, hl, hr⟩

/-- EXTEND's append answers: on an empty queue, or behind its tail. -/
theorem State.enqueue_eq_ok {s t : State} {h p : Nat} :
    s.enqueue h p = .ok t ↔ ∃ b, s.bufs[h]? = some b ∧
      ((b.phead = none ∧ t = (s.updBuf h fun b => { b with phead := some p }).updBuf h fun b => { b with ptail := some p }) ∨
       (b.phead ≠ none ∧ ∃ q k, b.ptail = some q ∧ s.pkts[q]? = some k ∧
         t = (s.updPkt q fun k => { k with next := some p }).updBuf h fun b => { b with ptail := some p })) := by
  simp only [State.enqueue, Attempt.bind_eq_ok, State.buf_eq_ok, Attempt.pure_eq_ok, State.linkTail]
  constructor
  · rintro ⟨b, hb, u, hu, rfl⟩
    refine ⟨b, hb, ?_⟩
    split at hu
    · rename_i hn
      rw [Attempt.pure_eq_ok] at hu
      exact .inl ⟨hn, by rw [hu]⟩
    · rename_i hn
      simp only [Attempt.bind_eq_ok, handleOf_eq_ok, State.pkt_eq_ok, Attempt.pure_eq_ok] at hu
      obtain ⟨q, hq, k, hk, rfl⟩ := hu
      exact .inr ⟨hn, q, k, hq, hk, rfl⟩
  · rintro ⟨b, hb, ⟨hn, rfl⟩ | ⟨hn, q, k, hq, hk, rfl⟩⟩
    · exact ⟨b, hb, _, by rw [if_pos hn, Attempt.pure_eq_ok], rfl⟩
    · refine ⟨b, hb, _, ?_, rfl⟩
      simp only [hn, if_false, Attempt.bind_eq_ok, handleOf_eq_ok, State.pkt_eq_ok, Attempt.pure_eq_ok]
      exact ⟨q, hq, k, hk, rfl⟩

/-- EXTEND's state effect answers (R144). -/
theorem extendedState_eq_ok {a b : BufState} :
    extendedState a = .ok b ↔ a.code.toNat < 5 ∧ b = if a = .run then .reload else a := by
  cases a <;> simp [extendedState, BufState.code] <;> exact eq_comm

/-- The record EXTEND writes (R143). -/
def extendPacket (a : ExtendArgs) : Packet :=
  { pre := a.pre, post := a.post, dur := a.dur, len := BitVec.ofNat 8 a.d.length, bytes := a.d, next := none }

/-- EXTEND answers (R143). -/
theorem State.extend_eq_ok {s : State} {h : Nat} {a : ExtendArgs} {r : Reply} :
    s.extend h a = .ok r ↔
      (s.acceptsHandle h = false ∧ r = s.rejected .badHandle) ∨
      (s.acceptsHandle h = true ∧ encodePacket s.cfg a.d a.pre.toNat a.post.toNat = .badArg ∧ r = s.rejected .badArg) ∨
      (s.acceptsHandle h = true ∧ encodePacket s.cfg a.d a.pre.toNat a.post.toNat = .overflow ∧
        r = s.exhausted .overflow) ∨
      (s.acceptsHandle h = true ∧ (encodePacket s.cfg a.d a.pre.toNat a.post.toNat).isOk = true ∧
        s.pool.pfreeHead = none ∧ r = s.exhausted .noPending) ∨
      (s.acceptsHandle h = true ∧ (encodePacket s.cfg a.d a.pre.toNat a.post.toNat).isOk = true ∧
        ∃ p u v b, s.popPfree = .ok (p, u) ∧ (u.updPkt p fun _ => extendPacket a).enqueue h p = .ok v ∧
          v.bufs[h]? = some b ∧ b.state.code.toNat < 5 ∧
          r = { status := .ok, handle := some h,
                state := v.updBuf h fun c =>
                  { c with replyWhen := a.rw, replyToken := a.token, state := if b.state = .run then .reload else b.state } }) := by
  unfold State.extend
  cases hh : s.acceptsHandle h
  · simp
  · cases he : encodePacket s.cfg a.d a.pre.toNat a.post.toNat with
    | badArg => simp [Encoded.isOk]
    | overflow => simp [Encoded.isOk]
    | ok x =>
      simp only [Bool.not_true, Bool.false_eq_true, if_false, reduceCtorEq, false_and, and_false, false_or, true_and,
        Encoded.isOk]
      split
      · rename_i hn
        have hp : ∀ p u, s.popPfree ≠ .ok (p, u) := by
          intro p u hc
          rw [State.popPfree_eq_ok, hn] at hc
          simp at hc
        simp [hn, hp]
      · rename_i hn
        simp only [Attempt.bind_eq_ok, Attempt.pure_eq_ok, Prod.exists, hn, false_and, false_or, State.buf_eq_ok,
          extendedState_eq_ok]
        constructor
        · rintro ⟨p, u, h1, v, h2, b, h3, st, ⟨h4, rfl⟩, rfl⟩
          exact ⟨p, u, v, b, h1, h2, h3, h4, rfl⟩
        · rintro ⟨p, u, v, b, h1, h2, h3, h4, rfl⟩
          exact ⟨p, u, h1, v, h2, b, h3, _, ⟨h4, rfl⟩, rfl⟩

/-- COMPLETE_NEW answers (R147). -/
theorem State.completeNew_eq_ok {s : State} {h : Nat} {r : Reply} :
    s.completeNew h = .ok r ↔ ∃ b, s.bufs[h]? = some b ∧ b.state = .load ∧
      ((b.phead = none ∧
          r = { status := .badArg, handle := none,
                state := (s.updBuf h fun b => { b with state := .empty, isOpen := false }).pushFree h }) ∨
       (b.phead ≠ none ∧ ∃ t u, s.loadHead h = .ok t ∧ t.linkAfter t.eng.cursor h = .ok u ∧
          r = { status := .ok, handle := some h, state := u.updBuf h fun b => { b with isOpen := false } })) := by
  simp only [State.completeNew, Attempt.bind_eq_ok, State.buf_eq_ok, expectState_eq_ok, beq_iff_eq]
  constructor
  · rintro ⟨b, h1, u, h2, h3⟩
    refine ⟨b, h1, h2, ?_⟩
    split at h3
    · rename_i hn
      rw [Attempt.pure_eq_ok] at h3
      exact .inl ⟨hn, h3⟩
    · rename_i hn
      simp only [Attempt.bind_eq_ok, Attempt.pure_eq_ok] at h3
      obtain ⟨t, h4, v, h5, rfl⟩ := h3
      exact .inr ⟨hn, t, v, h4, h5, rfl⟩
  · rintro ⟨b, h1, h2, ⟨hn, rfl⟩ | ⟨hn, t, u, h4, h5, rfl⟩⟩
    · exact ⟨b, h1, (), h2, by simp [hn]⟩
    · refine ⟨b, h1, (), h2, ?_⟩
      simp only [hn, if_false, Attempt.bind_eq_ok, Attempt.pure_eq_ok]
      exact ⟨t, h4, u, h5, rfl⟩

/-- COMPLETE_REUSED answers (R148). -/
theorem State.completeReused_eq_ok {s : State} {h : Nat} {r : Reply} :
    s.completeReused h = .ok r ↔ ∃ b, s.bufs[h]? = some b ∧ b.state.live = true ∧
      r = { status := .ok, handle := some h,
            state := (s.updBuf h fun b => { b with isOpen := false }).releaseIfLoad b.state } := by
  simp only [State.completeReused, Attempt.bind_eq_ok, Attempt.pure_eq_ok, State.buf_eq_ok, expectLive_eq_ok]
  constructor
  · rintro ⟨b, h1, u, h2, rfl⟩
    exact ⟨b, h1, h2, rfl⟩
  · rintro ⟨b, h1, h2, rfl⟩
    exact ⟨b, h1, (), h2, rfl⟩

/-- COMPLETE answers (R146). -/
theorem State.complete_eq_ok {s : State} {h : Nat} {r : Reply} :
    s.complete h = .ok r ↔
      (s.acceptsHandle h = false ∧ r = s.rejected .badHandle) ∨
      (s.acceptsHandle h = true ∧ ∃ b, s.bufs[h]? = some b ∧
        ((b.linked = true ∧ s.completeReused h = .ok r) ∨ (b.linked = false ∧ s.completeNew h = .ok r))) := by
  unfold State.complete
  cases hh : s.acceptsHandle h
  · simp
  · simp only [Bool.not_true, Bool.false_eq_true, if_false, Attempt.bind_eq_ok, State.buf_eq_ok, reduceCtorEq, false_and,
      false_or, true_and]
    constructor
    · rintro ⟨b, h1, h2⟩
      refine ⟨b, h1, ?_⟩
      cases hl : b.linked <;> simp_all
    · rintro ⟨b, h1, ⟨hl, h2⟩ | ⟨hl, h2⟩⟩
      · exact ⟨b, h1, by simpa [hl] using h2⟩
      · exact ⟨b, h1, by simpa [hl] using h2⟩

/-- CANCEL answers (R149, R150). -/
theorem State.cancel_eq_ok {s : State} {h : Nat} {r : Reply} :
    s.cancel h = .ok r ↔
      (s.acceptsHandle h = false ∧ r = s.rejected .badHandle) ∨
      (s.acceptsHandle h = true ∧ ∃ u b, s.releaseQueue h = .ok u ∧
        (u.updBuf h fun b => { b with replyWhen := .never, isOpen := false }).bufs[h]? = some b ∧
        ((b.linked = true ∧ b.state.live = true ∧
            r = { status := .ok, handle := some h,
                  state := (u.updBuf h fun b => { b with replyWhen := .never, isOpen := false }).releaseIfLoad b.state }) ∨
         (b.linked = false ∧ b.state = .load ∧
            r = { status := .ok, handle := some h,
                  state := ((u.updBuf h fun b => { b with replyWhen := .never, isOpen := false }).updBuf h fun b =>
                    { b with state := .empty }).pushFree h }))) := by
  unfold State.cancel
  cases hh : s.acceptsHandle h
  · simp
  · simp only [Bool.not_true, Bool.false_eq_true, if_false, Attempt.bind_eq_ok, Attempt.pure_eq_ok, State.buf_eq_ok,
      reduceCtorEq, false_and, false_or, true_and]
    constructor
    · rintro ⟨u, h1, b, h2, v, h3, rfl⟩
      refine ⟨u, b, h1, h2, ?_⟩
      cases hl : b.linked
      · simp only [State.cancelEnd, hl, Bool.false_eq_true, if_false, State.cancelNew, Attempt.bind_eq_ok, expectState_eq_ok, beq_iff_eq,
          Attempt.pure_eq_ok] at h3
        obtain ⟨_, h4, rfl⟩ := h3
        exact .inr ⟨rfl, h4, rfl⟩
      · simp only [State.cancelEnd, hl, if_true, State.cancelReused, Attempt.bind_eq_ok, expectLive_eq_ok, Attempt.pure_eq_ok] at h3
        obtain ⟨_, h4, rfl⟩ := h3
        exact .inl ⟨rfl, h4, rfl⟩
    · rintro ⟨u, b, h1, h2, ⟨hl, h3, rfl⟩ | ⟨hl, h3, rfl⟩⟩
      · refine ⟨u, h1, b, h2, _, ?_, rfl⟩
        simp only [State.cancelEnd, hl, if_true, State.cancelReused, Attempt.bind_eq_ok, expectLive_eq_ok, Attempt.pure_eq_ok]
        exact ⟨(), h3, trivial⟩
      · refine ⟨u, h1, b, h2, _, ?_, rfl⟩
        simp only [State.cancelEnd, hl, Bool.false_eq_true, if_false, State.cancelNew, Attempt.bind_eq_ok, expectState_eq_ok, beq_iff_eq,
          Attempt.pure_eq_ok]
        exact ⟨(), h3, trivial⟩

/-- SUBMIT answers (R190, R191). -/
theorem State.submit_eq_ok {s : State} {a : SubmitArgs} {r : Reply} :
    s.submit a = .ok r ↔
      (addressInRange a.pol a.addr = false ∧ r = s.rejected .badArg) ∨
      (addressInRange a.pol a.addr = true ∧ encodePacket s.cfg a.d a.pre.toNat a.post.toNat = .badArg ∧
        r = s.rejected .badArg) ∨
      (addressInRange a.pol a.addr = true ∧ encodePacket s.cfg a.d a.pre.toNat a.post.toNat = .overflow ∧
        r = s.exhausted .overflow) ∨
      (addressInRange a.pol a.addr = true ∧ (encodePacket s.cfg a.d a.pre.toNat a.post.toNat).isOk = true ∧
        ∃ q, s.acquire a.pol a.addr a.action a.ow = .ok q ∧
          ((q.handle = none ∧ r = { status := q.status, handle := none, state := q.state }) ∨
           (∃ h, q.handle = some h ∧ s.submitInto a h q.state = .ok r))) := by
  unfold State.submit
  cases hh : addressInRange a.pol a.addr
  · simp
  · cases he : encodePacket s.cfg a.d a.pre.toNat a.post.toNat with
    | badArg => simp [Encoded.isOk]
    | overflow => simp [Encoded.isOk]
    | ok x =>
      simp only [Bool.not_true, Bool.false_eq_true, if_false, reduceCtorEq, false_and, and_false, false_or, true_and,
        Encoded.isOk, Attempt.bind_eq_ok]
      constructor
      · rintro ⟨q, h1, h2⟩
        refine ⟨q, h1, ?_⟩
        cases hq : q.handle with
        | none => simp only [hq, Attempt.pure_eq_ok] at h2; exact .inl ⟨rfl, h2⟩
        | some h => simp only [hq] at h2; exact .inr ⟨h, rfl, h2⟩
      · rintro ⟨q, h1, ⟨hq, rfl⟩ | ⟨h, hq, h2⟩⟩
        · exact ⟨q, h1, by simp [hq]⟩
        · exact ⟨q, h1, by simpa [hq] using h2⟩

/-- SUBMIT's EXTEND and COMPLETE answer (R190). -/
theorem State.submitInto_eq_ok {s t : State} {a : SubmitArgs} {h : Nat} {r : Reply} :
    s.submitInto a h t = .ok r ↔ ∃ q, t.extend h (submitExtendArgs a h) = .ok q ∧
      ((q.status ≠ .ok ∧ r = { status := q.status, handle := none, state := s.setHistory q.state.history }) ∨
       (q.status = .ok ∧ ∃ c, q.state.complete h = .ok c ∧ r = { status := .ok, handle := some h, state := c.state })) := by
  simp only [State.submitInto, Attempt.bind_eq_ok]
  constructor
  · rintro ⟨q, h1, h2⟩
    refine ⟨q, h1, ?_⟩
    split at h2
    · rename_i hn
      rw [Attempt.pure_eq_ok] at h2
      exact .inl ⟨hn, h2⟩
    · rename_i hn
      simp only [Attempt.bind_eq_ok, Attempt.pure_eq_ok] at h2
      obtain ⟨c, h3, rfl⟩ := h2
      exact .inr ⟨not_not.1 hn, c, h3, rfl⟩
  · rintro ⟨q, h1, ⟨hn, rfl⟩ | ⟨hn, c, h3, rfl⟩⟩
    · exact ⟨q, h1, by simp [hn]⟩
    · refine ⟨q, h1, ?_⟩
      simp only [hn, ne_eq, not_true, if_false, Attempt.bind_eq_ok, Attempt.pure_eq_ok]
      exact ⟨c, h3, rfl⟩

end Sys2Proof.Machine
end

