-- ==== Sys2Proof/Laws/Frame.lean ====
section
/-! SUPPORT. What a step leaves unchanged: the body of each step, and the frame of each shared operation, field by field. -/

namespace Sys2Proof.Machine

/-- The body of each step (R11). -/
def bodyOf : Instr → State → Attempt State
  | .acquire a => acquireBody a
  | .extend a => extendBody a
  | .complete a => completeBody a
  | .cancel a => cancelBody a
  | .submit a => submitBody a
  | .freeBuffers a => freeBuffersBody a
  | .packetsSent a => packetsSentBody a
  | .resetScan a => resetScanBody a
  | .scanNext a => scanNextBody a
  | .tick => tickBody
  | .mgrInvoke => managerBody
  | .badOpcode _ => fun t => return t.answer .badOpcode []

/-- Every step but a disabled MGR_INVOKE runs its body. -/
theorem exec_eq_runStep {i : Instr} {s : State} (h : i = .mgrInvoke → s.latch = true) : exec i s = runStep s (bodyOf i) := by
  cases i <;> try rfl
  simp only [exec, execMgrInvoke, h rfl, Bool.true_eq_false, and_false, if_false]
  rfl

/-- What a step that answers a next state did. -/
theorem exec_eq_next {i : Instr} {s t : State} (h : exec i s = .next t) :
    s.halted = false ∧ (i = .mgrInvoke → s.latch = true) ∧
      (bodyOf i s.clearResult = .ok t ∨
        ∃ c, bodyOf i s.clearResult = .error (.fatal c) ∧ t = s.clearResult.fatalEntry c) := by
  have hl : i = .mgrInvoke → s.latch = true := by
    rintro rfl
    by_contra hc
    simp only [Bool.not_eq_true] at hc
    cases hh : s.halted
    · simp [exec, execMgrInvoke, hh, hc] at h
    · simp [exec, execMgrInvoke, hh, hc, runStep] at h
  rw [exec_eq_runStep hl] at h
  obtain ⟨h1, h2⟩ := runStep_eq_next.1 h
  exact ⟨h1, hl, h2⟩

/-- A step whose next state is not halted ran its body to the end. -/
theorem exec_eq_next_running {i : Instr} {s t : State} (h : exec i s = .next t) (ht : t.halted = false) :
    s.halted = false ∧ (i = .mgrInvoke → s.latch = true) ∧ bodyOf i s.clearResult = .ok t := by
  obtain ⟨h1, h2, h3 | ⟨c, _, rfl⟩⟩ := exec_eq_next h
  · exact ⟨h1, h2, h3⟩
  · simp at ht

/-! The pieces of TICK. -/

/-- A read of an entry that holds a value (R161). -/
theorem State.entry_of_some {s : State} {h i e : Nat} {b : Buffer} (hb : s.bufs[h]? = some b) (he : b.arr[i]? = some e) :
    s.entry h i = .ok (e, s) := by
  simp [State.entry, State.buf, hb, he, bind, Except.bind, pure, Except.pure]

/-- The countdown in the second half of a bit reads no free value (R160). -/
theorem State.countdown_of_one {s : State} (h : s.eng.half = 1) : s.countdown = (0, s) := by
  simp [State.countdown, h]

/-- The countdown in the first half of a bit reads no free value (R160). -/
theorem State.countdown_of_two {s : State} (h : s.eng.half = 2) : s.countdown = (1, s) := by
  simp [State.countdown, h]

/-! Projections of buffers and records. -/

/-- A field of buffer `j`, none outside the handle space. -/
def State.proj {α : Type} (π : Buffer → α) (s : State) (j : Nat) : Option α := s.bufs[j]?.map π

theorem State.proj_updBuf {α : Type} {π : Buffer → α} {s : State} {h j : Nat} {f : Buffer → Buffer}
    (hf : ∀ b, π (f b) = π b) : (s.updBuf h f).proj π j = s.proj π j := by
  unfold State.proj
  rw [State.updBuf_bufs, State.bufs_updBuf_getElem?]
  split
  · cases s.bufs[j]? <;> simp [hf]
  · rfl

theorem State.proj_updBuf_ne {α : Type} {π : Buffer → α} {s : State} {h j : Nat} {f : Buffer → Buffer} (hj : h ≠ j) :
    (s.updBuf h f).proj π j = s.proj π j := by
  unfold State.proj
  rw [State.updBuf_bufs, State.bufs_updBuf_getElem?, if_neg hj]

theorem State.proj_pushFree {α : Type} {π : Buffer → α} {s : State} {h j : Nat}
    (hf : ∀ (b : Buffer) (l : Option Nat), π { b with fnext := l } = π b) : (s.pushFree h).proj π j = s.proj π j :=
  State.proj_updBuf (s := s) (h := h) fun b => hf b _

theorem State.proj_fireReply {α : Type} {π : Buffer → α} {s : State} {h j : Nat} {w : Word}
    (hf : ∀ (b : Buffer) (l : ReplyPolicy), π { b with replyWhen := l } = π b) : (s.fireReply h w).proj π j = s.proj π j :=
  State.proj_updBuf (s := s.emit (.reply w)) (h := h) fun b => hf b _

/-- Two states agree on a field of every buffer when they hold the same buffers. -/
theorem State.proj_congr {α : Type} {π : Buffer → α} {s t : State} (h : t.bufs = s.bufs) (j : Nat) : t.proj π j = s.proj π j := by
  unfold State.proj
  rw [h]

end Sys2Proof.Machine
end

