-- ==== Sys2Proof/Laws/Arenas.lean ====
section
/-! SUPPORT. Every operation over the arenas keeps their canonical form: one record per handle (`Memory.wf`). -/

namespace Sys2Proof.Machine

/-- The same number of records in both arenas, under the same configuration. -/
def SameArenas (s t : State) : Prop := t.bufs.length = s.bufs.length ∧ t.pkts.length = s.pkts.length ∧ t.cfg = s.cfg

theorem SameArenas.refl (s : State) : SameArenas s s := ⟨rfl, rfl, rfl⟩

theorem SameArenas.trans {s t u : State} (h : SameArenas s t) (k : SameArenas t u) : SameArenas s u :=
  ⟨k.1.trans h.1, k.2.1.trans h.2.1, k.2.2.trans h.2.2⟩

theorem SameArenas.wf {s t : State} (h : SameArenas s t) : Memory.wf t = Memory.wf s := by
  simp only [Memory.wf, h.1, h.2.1, h.2.2]

theorem State.updBuf_arenas (s : State) (h : Nat) (f : Buffer → Buffer) : SameArenas s (s.updBuf h f) :=
  ⟨by simp, rfl, rfl⟩

theorem State.updPkt_arenas (s : State) (p : Nat) (f : Packet → Packet) : SameArenas s (s.updPkt p f) :=
  ⟨rfl, by simp, rfl⟩

theorem State.pushFree_arenas (s : State) (h : Nat) : SameArenas s (s.pushFree h) := s.updBuf_arenas h _

theorem State.pushPfree_arenas (s : State) (p : Nat) : SameArenas s (s.pushPfree p) := s.updPkt_arenas p _

theorem State.fireReply_arenas (s : State) (h : Nat) (w : Word) : SameArenas s (s.fireReply h w) :=
  (s.emit (.reply w)).updBuf_arenas h _

theorem State.fatalEntry_arenas (s : State) (c : FatalCode) : SameArenas s (s.fatalEntry c) := ⟨rfl, rfl, rfl⟩

theorem State.popFree_arenas {s t : State} {h : Nat} (ht : s.popFree = .ok (h, t)) : SameArenas s t := by
  obtain ⟨_, b, _, _, rfl⟩ := State.popFree_eq_ok.1 ht
  exact (s.setFreeHead b.fnext).updBuf_arenas h _

theorem State.popPfree_arenas {s t : State} {p : Nat} (ht : s.popPfree = .ok (p, t)) : SameArenas s t := by
  obtain ⟨_, k, _, rfl⟩ := State.popPfree_eq_ok.1 ht
  exact (s.setPfreeHead k.next).updPkt_arenas p _

theorem releaseFrom_arenas {n : Nat} {l : Option Nat} {s t : State} (ht : releaseFrom n l s = .ok t) : SameArenas s t := by
  obtain ⟨h1, h2⟩ := releaseFrom_frame ht
  exact ⟨by rw [h1], h2, by rw [h1]⟩

theorem State.releaseQueue_arenas {s t : State} {h : Nat} (ht : s.releaseQueue h = .ok t) : SameArenas s t := by
  obtain ⟨_, u, _, hu, rfl⟩ := State.releaseQueue_eq_ok.1 ht
  exact (releaseFrom_arenas hu).trans (u.updBuf_arenas h _)

theorem State.linkAfter_arenas {s t : State} {c h : Nat} (ht : s.linkAfter c h = .ok t) : SameArenas s t := by
  obtain ⟨_, n, _, _, _, _, rfl⟩ := State.linkAfter_eq_ok.1 ht
  exact ((s.updBuf_arenas h _).trans (State.updBuf_arenas _ n _)).trans
    ((State.updBuf_arenas _ c _).trans (State.updBuf_arenas _ h _))

theorem State.unlink_arenas {s t : State} {h : Nat} (ht : s.unlink h = .ok t) : SameArenas s t := by
  obtain ⟨_, pv, nx, _, _, _, _, _, _, _, rfl⟩ := State.unlink_eq_ok.1 ht
  exact ((s.updBuf_arenas pv _).trans (State.updBuf_arenas _ nx _)).trans (State.updBuf_arenas _ h _)

theorem State.enqueue_arenas {s t : State} {h p : Nat} (ht : s.enqueue h p = .ok t) : SameArenas s t := by
  obtain ⟨b, _, ⟨_, rfl⟩ | ⟨_, q, _, _, _, rfl⟩⟩ := State.enqueue_eq_ok.1 ht
  · exact (s.updBuf_arenas h _).trans (State.updBuf_arenas _ h _)
  · exact (s.updPkt_arenas q _).trans (State.updBuf_arenas _ h _)

theorem State.loaded_arenas (s : State) (h p : Nat) (b : Buffer) (k : Packet) (a : List Nat) :
    SameArenas s (s.loaded h p b k a) := by
  refine SameArenas.trans ?_ (State.updBuf_arenas _ h _)
  by_cases hc : k.next = none ∧ b.replyWhen = .atStart
  · rw [if_pos hc]
    exact ((State.updBuf_arenas (s.countOpen _) h _).trans (State.pushPfree_arenas _ p)).trans (State.fireReply_arenas _ h _)
  · rw [if_neg hc]
    exact (State.updBuf_arenas (s.countOpen _) h _).trans (State.pushPfree_arenas _ p)

theorem State.loadHead_arenas {s t : State} {h : Nat} (ht : s.loadHead h = .ok t) : SameArenas s t := by
  obtain ⟨b, p, k, a, _, _, _, _, _, rfl⟩ := State.loadHead_eq_ok.1 ht
  exact s.loaded_arenas h p b k a

/-- After reset there is one record per handle (R48). -/
theorem State.resetWith_wf (c : Config) : Memory.wf (State.resetWith c) = true := by
  simp [Memory.wf, State.resetWith, resetBuffers, resetPackets]

theorem State.reset_wf : Memory.wf State.reset = true := State.resetWith_wf Config.default

end Sys2Proof.Machine
end

