-- ==== Sys2Proof/Laws/Lists.lean ====
section
/-! SUPPORT. The walks over linked lists, each read off the list it walks: the ring, the free list, a buffer's queue. -/

namespace Sys2Proof.Machine

/-! Lists read off their links. -/

/-- From a link, a chain that does not pass its end before it is over passes one list only. -/
theorem Chain.unique {f : Nat → Option Nat} {stop l : Option Nat} {q r : List Nat} (hq : Chain f stop l q) (hr : Chain f stop l r)
    (sq : ∀ h ∈ q, stop ≠ some h) (sr : ∀ h ∈ r, stop ≠ some h) : q = r := by
  induction q generalizing l r with
  | nil =>
    cases hq
    cases r with
    | nil => rfl
    | cons h r => exact absurd hr.1 (sr h (by simp))
  | cons h q ih =>
    obtain ⟨rfl, hq⟩ := hq
    cases r with
    | nil => exact absurd hr.symm (sq h (by simp))
    | cons j r =>
      obtain ⟨hj, hr⟩ := hr
      cases hj
      rw [ih hq hr (fun i hi => sq i (by simp [hi])) fun i hi => sr i (by simp [hi])]

/-- The rest of a chain after one of its handles. -/
theorem Chain.rest {f : Nat → Option Nat} {stop l : Option Nat} {q r : List Nat} {h : Nat} (hc : Chain f stop l (q ++ h :: r)) :
    Chain f stop (f h) r := by
  induction q generalizing l with
  | nil => exact hc.2
  | cons j q ih => exact ih hc.2

/-- A list that ends holds nothing twice. -/
theorem Chain.nodup {f : Nat → Option Nat} {stop l : Option Nat} {q : List Nat} (hc : Chain f stop l q)
    (hs : ∀ h ∈ q, stop ≠ some h) : q.Nodup := by
  induction q generalizing l with
  | nil => exact List.nodup_nil
  | cons h q ih =>
    refine List.nodup_cons.2 ⟨fun hq => ?_, ih hc.2 fun j hj => hs j (by simp [hj])⟩
    obtain ⟨a, b, rfl⟩ := List.append_of_mem hq
    have := congrArg List.length
      (hc.2.unique hc.2.rest (fun j hj => hs j (by simp [hj])) fun j hj => hs j (by simp [hj]))
    simp at this
    omega

/-- A list of distinct handles below a bound is no longer than the bound. -/
theorem length_le_of_nodup {q : List Nat} {n : Nat} (hd : q.Nodup) (hb : ∀ h ∈ q, h < n) : q.length ≤ n := by
  simpa using (hd.subperm fun h hh => List.mem_range.2 (hb h hh)).length_le

/-- A handle of a record is below the arena's length. -/
theorem lt_length_of_getElem? {α : Type} {l : List α} {h : Nat} {a : α} (ha : l[h]? = some a) : h < l.length :=
  (List.getElem?_eq_some_iff.1 ha).1

/-! The ring. -/

theorem State.nextOf_of_buf {s : State} {h : Nat} {b : Buffer} (hb : s.bufs[h]? = some b) : s.nextOf h = b.next := by
  simp [State.nextOf, hb]

theorem State.fnextOf_of_buf {s : State} {h : Nat} {b : Buffer} (hb : s.bufs[h]? = some b) : s.fnextOf h = b.fnext := by
  simp [State.fnextOf, hb]

theorem State.pnextOf_of_pkt {s : State} {p : Nat} {k : Packet} (hk : s.pkts[p]? = some k) : s.pnextOf p = k.next := by
  simp [State.pnextOf, hk]

theorem State.ringFrom_of_chain {s : State} {n : Nat} {l : Option Nat} {ring : List Nat}
    (hc : Chain s.nextOf (some 0) l ring) (h0 : 0 ∉ ring) (hn : ring.length ≤ n)
    (hb : ∀ h ∈ ring, ∃ b, s.bufs[h]? = some b) : s.ringFrom n l = .ok ring := by
  induction ring generalizing n l with
  | nil => cases hc; cases n <;> simp [State.ringFrom]
  | cons h rest ih =>
    obtain ⟨rfl, hc⟩ := hc
    cases n with
    | zero => simp at hn
    | succ n =>
      have hne : h ≠ 0 := by rintro rfl; simp at h0
      obtain ⟨b, hb'⟩ := hb h (by simp)
      rw [State.nextOf_of_buf hb'] at hc
      have := ih hc (fun hm => h0 (by simp [hm])) (by simpa using hn) fun j hj => hb j (by simp [hj])
      simp [State.ringFrom, hne, handleOf, State.buf, hb', this, bind, Except.bind, pure, Except.pure]

/-- RING_ORDER reads the ring (R135). -/
theorem State.ringOrder_of_ringIs {s : State} {ring : List Nat} (h : RingIs s ring) : s.ringOrder = .ok ring := by
  obtain ⟨hc, h0, hn, hl⟩ := h
  have hb0 : ∃ b, s.bufs[0]? = some b := by
    cases hb : s.bufs[0]? with
    | some b => exact ⟨b, rfl⟩
    | none =>
      have : s.nextOf 0 = none := by simp [State.nextOf, hb]
      rw [this] at hc
      cases ring <;> simp [Chain] at hc
  obtain ⟨b, hb⟩ := hb0
  rw [State.nextOf_of_buf hb] at hc
  have := State.ringFrom_of_chain hc h0 hn fun j hj => (hl j hj).imp fun _ hx => hx.1
  simp [State.ringOrder, State.buf, hb, this, bind, Except.bind]

theorem expectLive_of_live {b : Buffer} (h : b.state.live = true) : expectLive b = .ok () := expectLive_eq_ok.2 h

/-- The list of live buffers is the whole ring (R195). -/
theorem State.liveIn_of_live {s : State} {l : List Nat} (h : ∀ j ∈ l, ∃ b, s.bufs[j]? = some b ∧ b.state.live = true) :
    s.liveIn l = .ok l := by
  induction l with
  | nil => rfl
  | cons j rest ih =>
    obtain ⟨b, hb, hl⟩ := h j (by simp)
    have := ih fun i hi => h i (by simp [hi])
    simp [State.liveIn, State.buf, hb, expectLive_of_live hl, this, bind, Except.bind, pure, Except.pure]

theorem sameTarget_iff {b : Buffer} {addr : Word} {pol : Polarity} :
    sameTarget b addr pol = true ↔ b.addr = addr ∧ b.pol = pol := by
  simp [sameTarget]

/-- FIND_LIVE finds nothing (R141). -/
theorem State.findLive_of_none {s : State} {addr : Word} {pol : Polarity} (h : NoLiveTarget s addr pol) :
    s.findLive addr pol = .ok none := by
  obtain ⟨ring, hr, hn⟩ := h
  have hl := hr.2.2.2
  simp only [State.findLive, State.ringOrder_of_ringIs hr, bind, Except.bind]
  clear hr
  induction ring with
  | nil => rfl
  | cons j rest ih =>
    obtain ⟨b, hb, hlb⟩ := hl j (by simp)
    have hne : sameTarget b addr pol = false := by
      rw [← Bool.not_eq_true, sameTarget_iff]
      exact hn j (by simp) b hb
    have := ih (fun i hi => hn i (by simp [hi])) fun i hi => hl i (by simp [hi])
    simpa [State.findLiveIn, State.buf, hb, expectLive_of_live hlb, hne, bind, Except.bind] using this

/-- FIND_LIVE finds the first (R141). -/
theorem State.findLive_of_first {s : State} {addr : Word} {pol : Polarity} {h : Nat} {b : Buffer}
    (hf : FirstLiveTarget s addr pol h b) : s.findLive addr pol = .ok (some h) := by
  obtain ⟨hb, ha, hp, before, after, hr, hn⟩ := hf
  have hl := hr.2.2.2
  simp only [State.findLive, State.ringOrder_of_ringIs hr, bind, Except.bind]
  clear hr
  induction before with
  | nil =>
    obtain ⟨c, hc, hlc⟩ := hl h (by simp)
    cases hb.symm.trans hc
    simp [State.findLiveIn, State.buf, hb, expectLive_of_live hlc, sameTarget_iff.2 ⟨ha, hp⟩, bind, Except.bind, pure,
      Except.pure]
  | cons j rest ih =>
    obtain ⟨c, hc, hlc⟩ := hl j (by simp)
    have hne : sameTarget c addr pol = false := by
      rw [← Bool.not_eq_true, sameTarget_iff]
      exact hn j (by simp) c hc
    have := ih (fun i hi => hn i (by simp [hi])) fun i hi => hl i (by simp only [List.cons_append, List.mem_cons]; exact .inr hi)
    simpa [State.findLiveIn, State.buf, hc, expectLive_of_live hlc, hne, bind, Except.bind] using this

/-- The first live target is a live buffer of the pool. -/
theorem FirstLiveTarget.live {s : State} {addr : Word} {pol : Polarity} {h : Nat} {b : Buffer}
    (hf : FirstLiveTarget s addr pol h b) : b.state.live = true ∧ h ≠ 0 := by
  obtain ⟨hb, _, _, before, after, ⟨_, h0, _, hl⟩, _⟩ := hf
  obtain ⟨c, hc, hlc⟩ := hl h (by simp)
  cases hb.symm.trans hc
  exact ⟨hlc, by rintro rfl; simp at h0⟩

/-- At most one buffer of an identity, so at most one live one (R44). -/
theorem OneBufferFor.atMostOneLive {s : State} {addr : Word} {pol : Polarity} (h : OneBufferFor s addr pol) :
    AtMostOneLive s addr pol := fun _ _ _ _ hb hc _ _ => h _ _ _ _ hb hc

/-! The free list. -/

/-- FREE_BUFFERS' count from a link on (R192): the buffers of the list, which ends at `NIL` or with one met before. -/
theorem State.freeFrom_of_chain {s : State} {n : Nat} {stop l : Option Nat} {seen free : List Nat}
    (hc : Chain s.fnextOf stop l free) (hs : ∀ h, stop = some h → h ∈ seen ++ free) (hd : (seen ++ free).Nodup)
    (hb : ∀ h ∈ seen ++ free, h < s.bufs.length) (hn : free.length ≤ n) :
    s.freeFrom n seen l = .ok (seen.length + free.length) := by
  induction free generalizing n l seen with
  | nil =>
    cases hc
    cases stop with
    | none => cases n <;> simp [State.freeFrom]
    | some h =>
      have hh : h ∈ seen := by simpa using hs h rfl
      obtain ⟨b, hb'⟩ : ∃ b, s.bufs[h]? = some b := ⟨_, List.getElem?_eq_getElem (hb h (by simpa using hh))⟩
      cases n with
      | zero => simp [State.freeFrom, State.buf, hb', bind, Except.bind, pure, Except.pure]
      | succ n => simp [State.freeFrom, hh]
  | cons h rest ih =>
    obtain ⟨rfl, hc⟩ := hc
    cases n with
    | zero => simp at hn
    | succ n =>
      obtain ⟨b, hb'⟩ : ∃ b, s.bufs[h]? = some b := ⟨_, List.getElem?_eq_getElem (hb h (by simp))⟩
      rw [State.fnextOf_of_buf hb'] at hc
      have hp : (seen ++ h :: rest).Perm (h :: seen ++ rest) := List.perm_middle
      have hns : h ∉ seen := fun hh => (List.disjoint_of_nodup_append hd) hh (by simp)
      have := ih hc (fun j hj => hp.mem_iff.1 (hs j hj)) (hp.nodup_iff.1 hd) (fun j hj => hb j (hp.mem_iff.2 hj)) (by simpa using hn)
      simp only [State.freeFrom, hns, if_false, State.buf, hb', bind, Except.bind, this]
      simp
      omega

/-- FREE_BUFFERS' count of a free list (R192): one that ends, or one that comes back to a buffer on it. -/
theorem State.freeFrom_of_list {s : State} {stop : Option Nat} {free : List Nat} (hc : Chain s.fnextOf stop s.pool.freeHead free)
    (hs : ∀ h, stop = some h → h ∈ free) (hd : free.Nodup) (hb : ∀ h ∈ free, h < s.bufs.length) :
    s.freeFrom s.bufs.length [] s.pool.freeHead = .ok free.length := by
  simpa using State.freeFrom_of_chain (seen := []) hc (by simpa using hs) (by simpa using hd) (by simpa using hb)
    (length_le_of_nodup hd hb)

/-! NEXT_RADIABLE. -/

/-- NEXT_RADIABLE passes over the buffers in `LOAD` (R163). -/
theorem State.radiableFrom_of_chain {s : State} {m n : Nat} {l : Option Nat} {passed : List Nat} {c : Buffer}
    (hc : Chain s.nextOf (some n) l passed) (hp : ∀ h ∈ passed, ∃ d, s.bufs[h]? = some d ∧ d.state = .load)
    (hn : s.bufs[n]? = some c) (hr : c.state.radiable = true) (hm : passed.length < m) : s.radiableFrom m l = .ok n := by
  induction passed generalizing m l with
  | nil =>
    cases hc
    cases m with
    | zero => simp at hm
    | succ m =>
      simp only [State.radiableFrom, handleOf, State.buf, hn, bind, Except.bind]
      revert hr
      cases c.state <;> simp [BufState.radiable, pure, Except.pure]
  | cons h rest ih =>
    obtain ⟨rfl, hc⟩ := hc
    cases m with
    | zero => simp at hm
    | succ m =>
      obtain ⟨d, hd, hds⟩ := hp h (by simp)
      rw [State.nextOf_of_buf hd] at hc
      have := ih hc (fun j hj => hp j (by simp [hj])) (by simpa using hm)
      simp [State.radiableFrom, handleOf, State.buf, hd, hds, this, bind, Except.bind]

/-! A buffer's queue. -/

theorem Chain.congr {f g : Nat → Option Nat} {stop l : Option Nat} {q : List Nat} (h : ∀ j ∈ q, f j = g j)
    (hc : Chain f stop l q) : Chain g stop l q := by
  induction q generalizing l with
  | nil => exact hc
  | cons j rest ih =>
    obtain ⟨rfl, hc⟩ := hc
    exact ⟨rfl, by rw [← h j (by simp)]; exact ih (fun i hi => h i (by simp [hi])) hc⟩

theorem State.pushPfree_pkts_ne {s : State} {p j : Nat} (h : p ≠ j) : (s.pushPfree p).pkts[j]? = s.pkts[j]? := by
  simp [State.pushPfree, h]

theorem State.pushPfree_pnextOf {s : State} {p : Nat} (h : p < s.pkts.length) :
    (s.pushPfree p).pnextOf p = s.pool.pfreeHead := by
  simp [State.pushPfree, State.pnextOf, List.getElem?_eq_getElem h]

theorem State.pushPfree_pnextOf_ne {s : State} {p j : Nat} (h : p ≠ j) : (s.pushPfree p).pnextOf j = s.pnextOf j := by
  rw [State.pnextOf, State.pushPfree_pkts_ne h, State.pnextOf]

/-- RELEASE_QUEUE's loop releases the queue it is given (R132). -/
theorem releaseFrom_of_list {n : Nat} {l : Option Nat} {s : State} {q : List Nat} (hc : Chain s.pnextOf none l q)
    (hd : q.Nodup) (hb : ∀ p ∈ q, p < s.pkts.length) (hn : q.length ≤ n) :
    ∃ t, releaseFrom n l s = .ok t ∧ QueueReleased s t q := by
  induction q generalizing n l s with
  | nil =>
    cases hc
    refine ⟨s, by cases n <;> rfl, fun _ _ => rfl, fun p k hk => ⟨k.next, by simpa using hk⟩, fun free hf _ => by simpa using hf⟩
  | cons p rest ih =>
    obtain ⟨rfl, hc⟩ := hc
    cases n with
    | zero => simp at hn
    | succ n =>
      have hpb := hb p (by simp)
      obtain ⟨k₀, hk⟩ : ∃ k, s.pkts[p]? = some k := ⟨_, List.getElem?_eq_getElem hpb⟩
      obtain ⟨hpr, hdr⟩ := List.nodup_cons.1 hd
      rw [State.pnextOf_of_pkt hk] at hc
      have hc' : Chain (s.pushPfree p).pnextOf none k₀.next rest :=
        hc.congr fun j hj => (State.pushPfree_pnextOf_ne (by rintro rfl; exact hpr hj)).symm
      obtain ⟨t, ht, h1, h2, h3⟩ := ih hc' hdr (fun j hj => by simpa [State.pushPfree] using hb j (by simp [hj]))
        (by simpa using hn)
      refine ⟨t, releaseFrom_cons.2 ⟨_, hk, ht⟩, ?_, ?_, ?_⟩
      · intro j hj
        simp only [List.mem_cons, not_or] at hj
        rw [h1 j hj.2, State.pushPfree_pkts_ne fun h => hj.1 h.symm]
      · intro j k hj
        by_cases hpj : p = j
        · subst hpj
          have : (s.pushPfree p).pkts[p]? = some { k with next := s.pool.pfreeHead } := by simp [State.pushPfree, hj]
          obtain ⟨l, hl⟩ := h2 p _ this
          exact ⟨l, hl⟩
        · exact h2 j k (by rw [State.pushPfree_pkts_ne hpj]; exact hj)
      · intro free hf hdis
        have hpf : p ∉ free := hdis p (by simp)
        have hf' : Chain (s.pushPfree p).pnextOf none (s.pushPfree p).pool.pfreeHead (p :: free) := by
          refine ⟨rfl, ?_⟩
          rw [State.pushPfree_pnextOf hpb]
          exact hf.congr fun j hj => (State.pushPfree_pnextOf_ne (by rintro rfl; exact hpf hj)).symm
        have := h3 (p :: free) hf' fun j hj hjf => by
          rcases List.mem_cons.1 hjf with rfl | hjf
          · exact hpr hj
          · exact hdis j (by simp [hj]) hjf
        simpa using this

/-- RELEASE_QUEUE of a buffer whose queue is the list given (R132). -/
theorem State.releaseQueue_of_list {s : State} {h : Nat} {b : Buffer} {q : List Nat} (hb : s.bufs[h]? = some b)
    (hq : PendingListIs s b.phead q) :
    ∃ t, s.releaseQueue h = .ok t ∧ QueueReleased s t q ∧
      t = { s with bufs := s.bufs.modify h fun b => { b with phead := none, ptail := none }, pkts := t.pkts,
                   pool := { s.pool with pfreeHead := t.pool.pfreeHead } } := by
  obtain ⟨u, hu, hr⟩ := releaseFrom_of_list (n := 2 * s.pkts.length) hq.1 hq.2.1 hq.2.2.1
    (by have := length_le_of_nodup hq.2.1 hq.2.2.1; omega)
  refine ⟨_, State.releaseQueue_eq_ok.2 ⟨b, u, hb, hu, rfl⟩, hr, ?_⟩
  have := (releaseFrom_frame hu).1
  rw [this]
  rfl

end Sys2Proof.Machine
end

