-- ==== Sys2Proof/Laws/PerInstr.lean ====
section
/-! SUPPORT. Statements made per instruction: the step word of every step is the row of spec/opcode_table.json it belongs to. -/

namespace Sys2Proof.Laws.TableWord

open Sys2Proof

/-- The fixed step word of a row of spec/opcode_table.json (R90, R94); the last row has none of its own. -/
def rowWord : Instr → Option StepWord
  | .acquire _ => some 0x001
  | .extend _ => some 0x002
  | .complete _ => some 0x003
  | .cancel _ => some 0x004
  | .submit _ => some 0x005
  | .freeBuffers _ => some 0x006
  | .packetsSent _ => some 0x007
  | .resetScan _ => some 0x008
  | .scanNext _ => some 0x009
  | .tick => some 0x100
  | .mgrInvoke => some 0x200
  | .badOpcode _ => none

/-- A well-formed step is presented by its row's word, and a host command's frame begins with its opcode; an unassigned opcode's word is of
source 0 and none of the assigned ones. -/
def Statement (i : Instr) : Prop :=
  i.wellFormed = true →
    (∀ w, rowWord i = some w → (encode i).word = w ∧ (w ≠ 0x100 → w ≠ 0x200 → (encode i).frame.head? = some (w.setWidth 8))) ∧
    (rowWord i = none → sourceOf (encode i).word = 0 ∧ opcodeAssigned (operationOf (encode i).word) = false)

theorem acquire (a : Args AcquireArgs) : Statement (.acquire a) :=
  fun _ => ⟨fun w h => by cases h; exact ⟨rfl, fun _ _ => rfl⟩, fun h => by cases h⟩

theorem extend (a : Args ExtendArgs) : Statement (.extend a) :=
  fun _ => ⟨fun w h => by cases h; exact ⟨rfl, fun _ _ => rfl⟩, fun h => by cases h⟩

theorem complete (a : Args Byte) : Statement (.complete a) :=
  fun _ => ⟨fun w h => by cases h; exact ⟨rfl, fun _ _ => rfl⟩, fun h => by cases h⟩

theorem cancel (a : Args Byte) : Statement (.cancel a) :=
  fun _ => ⟨fun w h => by cases h; exact ⟨rfl, fun _ _ => rfl⟩, fun h => by cases h⟩

theorem submit (a : Args SubmitArgs) : Statement (.submit a) :=
  fun _ => ⟨fun w h => by cases h; exact ⟨rfl, fun _ _ => rfl⟩, fun h => by cases h⟩

theorem freeBuffers (a : Args Unit) : Statement (.freeBuffers a) :=
  fun _ => ⟨fun w h => by cases h; exact ⟨rfl, fun _ _ => rfl⟩, fun h => by cases h⟩

theorem packetsSent (a : Args Unit) : Statement (.packetsSent a) :=
  fun _ => ⟨fun w h => by cases h; exact ⟨rfl, fun _ _ => rfl⟩, fun h => by cases h⟩

theorem resetScan (a : Args Unit) : Statement (.resetScan a) :=
  fun _ => ⟨fun w h => by cases h; exact ⟨rfl, fun _ _ => rfl⟩, fun h => by cases h⟩

theorem scanNext (a : Args Unit) : Statement (.scanNext a) :=
  fun _ => ⟨fun w h => by cases h; exact ⟨rfl, fun _ _ => rfl⟩, fun h => by cases h⟩

theorem tick : Statement .tick :=
  fun _ => ⟨fun w h => by cases h; exact ⟨rfl, fun h => absurd rfl h⟩, fun h => by cases h⟩

theorem mgrInvoke : Statement .mgrInvoke :=
  fun _ => ⟨fun w h => by cases h; exact ⟨rfl, fun _ h => absurd rfl h⟩, fun h => by cases h⟩

theorem badOpcode (frame : List Byte) : Statement (.badOpcode frame) := by
  intro hw
  refine ⟨fun w h => (by cases h), fun _ => ?_⟩
  cases frame with
  | nil => decide
  | cons op t =>
    have hs : ∀ op : Byte, sourceOf (op.setWidth 10) = 0 := by decide +kernel
    have ho : operationOf (op.setWidth 10) = op := by simp [operationOf]
    simp only [encode, hostLabel]
    exact ⟨hs op, by rw [ho]; simpa [Instr.wellFormed] using hw⟩

end Sys2Proof.Laws.TableWord
end

