-- ==== Sys2Proof/Tests/Slice0.lean ====
section
/-! SUPPORT. Tests: ill-formed terms, words written out from the spec's encodings, one-step results from the spec's examples, and a
witness for the hypotheses of each statement. -/

namespace Sys2Proof.Tests

set_option Elab.async false

open Sys2Proof Sys2Proof.Machine

/-! Ill-formed terms, one for each check of `Instr.wellFormed`. -/

/-- The frame of R95's table parses, so that its bytes are no malformed operands. -/
theorem test_wellFormed_acquire : (Instr.acquire (.malformed [0x02, 0x03, 0x00, 0x40, 0x00])).wellFormed = false := by decide

theorem test_wellFormed_acquire_short : (Instr.acquire (.malformed [0x02])).wellFormed = true := by decide

theorem test_wellFormed_extend :
    (Instr.extend (.malformed [0x01, 0x0E, 0x01, 0x01, 0x02, 0x34, 0x12, 0x01, 0x55])).wellFormed = false := by decide

theorem test_wellFormed_extend_count :
    (Instr.extend (.ok { h := 1, pre := 14, post := 1, dur := 1, rw := .never, token := 0,
                         d := List.replicate 256 0 })).wellFormed = false := by decide +kernel

theorem test_wellFormed_complete : (Instr.complete (.malformed [0x01])).wellFormed = false := by decide

theorem test_wellFormed_cancel : (Instr.cancel (.malformed [0x01])).wellFormed = false := by decide

theorem test_wellFormed_submit :
    (Instr.submit (.malformed [0x02, 0x03, 0x00, 0x40, 0x00, 0x0E, 0x01, 0x01, 0x02, 0x34, 0x12, 0x00])).wellFormed = false := by
  decide

theorem test_wellFormed_submit_count :
    (Instr.submit (.ok { pol := .mobile, ow := false, addr := 0, action := 0, pre := 14, post := 1, dur := 1, rw := .never,
                         token := 0, d := List.replicate 256 0 })).wellFormed = false := by decide +kernel

theorem test_wellFormed_queries :
    (Instr.freeBuffers (.malformed [])).wellFormed = false ∧ (Instr.packetsSent (.malformed [])).wellFormed = false ∧
    (Instr.resetScan (.malformed [])).wellFormed = false ∧ (Instr.scanNext (.malformed [])).wellFormed = false := by decide

theorem test_wellFormed_badOpcode :
    (Instr.badOpcode [0x01]).wellFormed = false ∧ (Instr.badOpcode [0x09]).wellFormed = false ∧
    (Instr.badOpcode [0x0A]).wellFormed = true ∧ (Instr.badOpcode []).wellFormed = true := by decide

/-! Words written out bit by bit from R90: source in bits 9:8, operation in bits 7:0; frames from R94 to R103. -/

theorem test_decode_acquire :
    decode { word := 0b00_00000001#10, frame := [0x01, 0b00000011, 0xFF, 0x01, 0xCD, 0xAB] } =
      .ok (.acquire (.ok { pol := .accessory, ow := true, addr := 511, action := 0xABCD })) := by decide

theorem test_decode_acquire_reserved :
    decode { word := 0b00_00000001#10, frame := [0x01, 0b00000100, 0xFF, 0x01, 0xCD, 0xAB] } =
      .ok (.acquire (.malformed [0b00000100, 0xFF, 0x01, 0xCD, 0xAB])) := by decide

theorem test_decode_extend :
    decode { word := 0b00_00000010#10, frame := [0x02, 0x05, 0x14, 0x02, 0x00, 0x01, 0x00, 0x80, 0x02, 0xAA, 0x55] } =
      .ok (.extend (.ok { h := 5, pre := 20, post := 2, dur := 0, rw := .atStart, token := 0x8000, d := [0xAA, 0x55] })) := by
  decide

theorem test_decode_extend_reply3 :
    decode { word := 0b00_00000010#10, frame := [0x02, 0x05, 0x14, 0x02, 0x00, 0x03, 0x00, 0x80, 0x00] } =
      .ok (.extend (.malformed [0x05, 0x14, 0x02, 0x00, 0x03, 0x00, 0x80, 0x00])) := by decide

theorem test_decode_complete : decode { word := 0b00_00000011#10, frame := [0x03, 0x02] } = .ok (.complete (.ok 2)) := by decide

theorem test_decode_cancel : decode { word := 0b00_00000100#10, frame := [0x04, 0xFE] } = .ok (.cancel (.ok 0xFE)) := by decide

theorem test_decode_submit :
    decode { word := 0b00_00000101#10,
             frame := [0x05, 0x00, 0xFF, 0x3F, 0x01, 0x02, 0x0E, 0x01, 0xFF, 0x02, 0x34, 0x12, 0x01, 0x7E] } =
      .ok (.submit (.ok { pol := .mobile, ow := false, addr := 16383, action := 0x0201, pre := 14, post := 1, dur := 255,
                          rw := .atEnd, token := 0x1234, d := [0x7E] })) := by decide

theorem test_decode_submit_length :
    decode { word := 0b00_00000101#10,
             frame := [0x05, 0x00, 0x03, 0x00, 0x01, 0x02, 0x0E, 0x01, 0x01, 0x02, 0x34, 0x12, 0x02, 0x7E] } =
      .ok (.submit (.malformed [0x00, 0x03, 0x00, 0x01, 0x02, 0x0E, 0x01, 0x01, 0x02, 0x34, 0x12, 0x02, 0x7E])) := by decide

theorem test_decode_queries :
    decode { word := 0b00_00000110#10, frame := [0x06] } = .ok (.freeBuffers (.ok ())) ∧
    decode { word := 0b00_00000111#10, frame := [0x07] } = .ok (.packetsSent (.ok ())) ∧
    decode { word := 0b00_00001000#10, frame := [0x08] } = .ok (.resetScan (.ok ())) ∧
    decode { word := 0b00_00001001#10, frame := [0x09] } = .ok (.scanNext (.ok ())) := by decide

theorem test_decode_tick : decode { word := 0b01_00000000#10, frame := [] } = .ok .tick := by decide

theorem test_decode_mgrInvoke : decode { word := 0b10_00000000#10, frame := [] } = .ok .mgrInvoke := by decide

theorem test_decode_badOpcode :
    decode { word := 0b00_11111111#10, frame := [0xFF] } = .ok (.badOpcode [0xFF]) ∧
    decode { word := 0b00_00000000#10, frame := [0x00] } = .ok (.badOpcode [0x00]) ∧
    decode { word := 0b00_00000000#10, frame := [] } = .ok (.badOpcode []) := by decide

/-! A state with three buffers and two pending records. -/

/-- A small configuration; its idle array is that of one byte `0xFF` (R85): 1, then the start bit, then eight ones and the
postamble. -/
def tiny : Config :=
  { Config.default with numBuffers := 3, numPending := 2, maxCommand := 2, maxTransitions := 20, idleBytes := [0xFF], idlePreamble := 1 }

/-- Reset. -/
def fresh : State := State.resetWith tiny

/-- The array of the byte `0x55` with preamble and postamble 1, by hand: 1 / 00 / 1 / 0 / 1 / 0 / 1 / 0 / 11. -/
def array55 : List Nat := [1, 2, 1, 1, 1, 1, 1, 1, 2, 0]

/-- The record of that packet. -/
def packet55 : Packet := { pre := 1, post := 1, dur := 1, len := 1, bytes := [0x55], next := none }

/-- Buffer 1 acquired for mobile 3 and open. -/
def acquired : State :=
  (fresh.updBuf 1 fun b => { b with state := .load, addr := 3, isOpen := true, fnext := none }).setFreeHead (some 2)

/-- The same with one packet in its queue. -/
def queued : State :=
  ((acquired.updBuf 1 fun b => { b with phead := some 0, ptail := some 0, replyWhen := .atStart, replyToken := 9 }).updPkt 0
    fun _ => packet55).setPfreeHead (some 1)

/-- Buffer 1 on the ring, in the given state, open or not, radiating that packet. -/
def onRing (st : BufState) (opened : Bool) : State :=
  ((fresh.updBuf 0 fun b => { b with next := some 1, prev := some 1 }).updBuf 1 fun b =>
    { b with state := st, addr := 3, arr := array55, repeatCount := 1, linked := true, isOpen := opened, next := some 0,
             prev := some 0, fnext := none, replyWhen := .atEnd, replyToken := 7 }).setFreeHead (some 2)

/-- Buffer 1 waiting for the Manager Task with nothing to send. -/
def waiting : State := (onRing .load false).release

/-- Buffer 1 waiting for the Manager Task with one packet in its queue. -/
def waitingQueued : State :=
  ((waiting.updBuf 1 fun b => { b with phead := some 0, ptail := some 0 }).updPkt 0 fun _ => packet55).setPfreeHead (some 1)

/-- The engine at an entry of the cursor's array, in the second half of its last bit. -/
def lastHalf (s : State) (idx : Nat) : State :=
  s.setEng { s.eng with idx := idx, left := 0, half := 1, track := true, bitval := entryBit idx, cmp := halfBitTicks s.cfg (entryBit idx) }

/-- ACQUIRE of mobile 3. -/
def acquire3 (ow : Bool) : AcquireArgs := { pol := .mobile, ow := ow, addr := 3, action := 0x40 }

/-- EXTEND of handle 1 with the byte `0x55`. -/
def extend1 : ExtendArgs := { h := 1, pre := 1, post := 1, dur := 1, rw := .atEnd, token := 5, d := [0x55] }

/-- SUBMIT for mobile 3 of the byte `0x55`. -/
def submit3 (ow : Bool) : SubmitArgs :=
  { pol := .mobile, ow := ow, addr := 3, action := 0x40, pre := 1, post := 1, dur := 1, rw := .atEnd, token := 5, d := [0x55] }

/-- What a step answers, seen through a function of the next state. -/
def seen {α : Type} (f : State → α) (o : Host.Outcome State Fault Refusal) : Option α :=
  match o with
  | .next t => some (f t)
  | _ => none

/-! One step each, with the results the spec states. -/

/-- R110's worked example. -/
theorem test_encode_idle : encodePacket Config.default [0xFF, 0x00, 0xFF] 14 1 = .ok [14, 1, 8, 10, 9, 0] := by decide

/-- R146's worked example. -/
theorem test_encode_packet :
    encodePacket Config.default [0x03, 0x60, 0x63] 14 1 = .ok [14, 7, 2, 2, 2, 7, 2, 3, 3, 0] := by decide

/-- R168: after TICK 1. -/
theorem test_tick_first :
    seen (fun t => (t.eng.half, t.eng.track, t.eng.left, t.eng.cmp)) (exec .tick State.reset) = some (1, true, 13, 116) := by
  decide +kernel

/-- R168: TICK 28 starts the first 0. -/
theorem test_tick_entry :
    seen (fun t => (t.eng.idx, t.eng.left, t.eng.bitval, t.eng.cmp)) (exec .tick (lastHalf State.reset 0)) =
      some (1, 0, false, 200) := by decide +kernel

/-- R140's worked example. -/
theorem test_acquire : seen (·.result) (exec (.acquire (.ok (acquire3 true))) State.reset) = some [0x00, 0x01] := by
  decide +kernel

/-- R132: the loop goes on through a record it has released, and ends: the pending free list is then 1, 0, 0 and so on. -/
theorem test_acquire_releases_loop :
    seen (fun t => (t.pool.pfreeHead, t.pkts.map (·.next)))
      (exec (.acquire (.ok (acquire3 true))) (waitingQueued.updPkt 0 fun k => { k with next := some 0 })) =
      some (some 1, [some 0, some 0]) := by decide +kernel

/-- R143: the queue holds record 0 and the next record is on top of the pending free list. -/
theorem test_extend :
    seen (fun t => (t.result, (t.bufs[1]?).map (·.phead), t.pool.pfreeHead)) (exec (.extend (.ok extend1)) acquired) =
      some ([0x00], some (some 0), some 1) := by decide +kernel

/-- R144: `RUN` becomes `RELOAD`. -/
theorem test_extend_reload :
    seen (fun t => (t.bufs[1]?).map (·.state)) (exec (.extend (.ok extend1)) (onRing .run true)) = some (some .reload) := by
  decide +kernel

/-- R146: the buffer runs the array, linked after buffer 0. -/
theorem test_complete :
    seen (fun t => ((t.bufs[1]?).map fun b => (b.arr, b.prev), t.history)) (exec (.complete (.ok 1)) queued) =
      some (some (array55, some 0), [.reply 9]) := by decide +kernel

/-- R147: nothing to send. -/
theorem test_complete_empty :
    seen (fun t => (t.result, t.pool.freeHead)) (exec (.complete (.ok 1)) acquired) = some ([0x04], some 1) := by decide +kernel

/-- R149's worked example: buffer 1 is on top of the free list again. -/
theorem test_cancel :
    seen (fun t => (t.result, t.pool, (t.bufs[1]?).map (·.fnext))) (exec (.cancel (.ok 1)) queued) =
      some ([0x00], { freeHead := some 1, pfreeHead := some 0 }, some (some 2)) := by decide +kernel

/-- R150: a reused buffer in `LOAD` releases the latch. -/
theorem test_cancel_reused :
    seen (fun t => (t.latch, (t.bufs[1]?).map (·.state))) (exec (.cancel (.ok 1)) (onRing .load true)) =
      some (true, some .load) := by decide +kernel

/-- R190's worked example. -/
theorem test_submit :
    seen (·.result)
      (exec (.submit (.ok { pol := .mobile, ow := true, addr := 3, action := 0x0040, pre := 14, post := 1, dur := 1, rw := .atEnd,
                            token := 0x1234, d := [0x03, 0x60, 0x63] })) State.reset) = some [0x00, 0x01] := by decide +kernel

/-- R191: an overwrite with no record left fails and keeps the state, but for its event. -/
theorem test_submit_noPending :
    seen (fun t => (t.result, t.history, (t.bufs[1]?).map (·.action)))
      (exec (.submit (.ok (submit3 true))) ((onRing .run false).setPfreeHead none)) =
      some ([0x02, 0xFF], [.diag .noPending], some 0) := by decide +kernel

/-- R192's worked example. -/
theorem test_freeBuffers : seen (·.result) (exec (.freeBuffers (.ok ())) State.reset) = some [0x00, 0x07] := by decide +kernel

/-- A free list that comes back to a buffer on it: its buffers count once each. -/
def freeLoop : State := fresh.updBuf 2 fun b => { b with fnext := some 1 }

/-- R62: the link after the last of all the free buffers leads outside the handle space. -/
theorem test_freeBuffers_link :
    seen (·.fatalCode) (exec (.freeBuffers (.ok ())) (fresh.updBuf 2 fun b => { b with fnext := some 3 })) = some 5 := by
  decide +kernel

/-- R193: low byte first. -/
theorem test_packetsSent :
    seen (·.result) (exec (.packetsSent (.ok ())) (fresh.setPacketsSent 0x1234)) = some [0x00, 0x34, 0x12] := by decide +kernel

/-- R194. -/
theorem test_resetScan :
    seen (fun t => (t.result, t.scanPos)) (exec (.resetScan (.ok ())) (fresh.setScanPos 5)) = some ([0x00], 0) := by decide +kernel

/-- R195's worked example, with the action 0. -/
theorem test_scanNext :
    seen (·.result) (exec (.scanNext (.ok ())) (onRing .run false)) = some [0x00, 0x00, 0x03, 0x00, 0x00, 0x00] := by decide +kernel

/-- R195: past the last live buffer. -/
theorem test_scanNext_end :
    seen (·.result) (exec (.scanNext (.ok ())) ((onRing .run false).setScanPos 1)) =
      some [0x07, 0x00, 0x00, 0x00, 0x00, 0x00] := by decide +kernel

/-- R185, step 4: the reply, the free buffer, the ring of one. -/
theorem test_mgrInvoke_free :
    seen (fun t => (t.latch, t.history, t.pool.freeHead, (t.bufs[0]?).map (·.next))) (exec .mgrInvoke waiting) =
      some (false, [.reply 7], some 1, some (some 0)) := by decide +kernel

/-- R182: the head packet is loaded. -/
theorem test_mgrInvoke_load :
    seen (fun t => (t.bufs[1]?).map fun b => (b.state, b.arr, b.phead)) (exec .mgrInvoke waitingQueued) =
      some (some (.run, array55, none)) := by decide +kernel

/-- R196. -/
theorem test_badOpcode : seen (·.result) (exec (.badOpcode [0x0A, 0x01]) fresh) = some [0x06] := by decide +kernel

/-- The next input is run, from reset, where the host places it. -/
theorem test_step_places :
    seen (·.result) (step (State.reset.withFetchWord 10 0x006)) = some [0x00, 0x07] := by decide +kernel

/-- R6: an idle packet that does not encode is refused. -/
theorem test_configuration_refused :
    configValid { tiny with idleBytes := [0x00, 0x00, 0x00] } = false ∧ configValid tiny = true := by decide +kernel

/-! A sound state: one buffer waiting for the Manager Task with a packet. -/

theorem next_of_seen {α : Type} {f : State → α} {o : Host.Outcome State Fault Refusal} {v : α} (h : seen f o = some v) :
    ∃ t, o = .next t ∧ f t = v := by
  cases o with
  | next t => exact ⟨t, rfl, by simpa [seen] using h⟩
  | fault r => simp [seen] at h
  | refused r => simp [seen] at h

/-- What holds of three buffers holds of every buffer of a list of three. -/
theorem each_of_three {P : Nat → Buffer → Prop} {l : List Buffer} {a b c : Buffer} (hl : l = [a, b, c]) (h0 : P 0 a) (h1 : P 1 b)
    (h2 : P 2 c) (h : Nat) (x : Buffer) (hx : l[h]? = some x) : P h x := by
  subst hl
  match h, hx with
  | 0, hx => cases hx; exact h0
  | 1, hx => cases hx; exact h1
  | 2, hx => cases hx; exact h2

theorem waitingQueued_bufs :
    waitingQueued.bufs = [waitingQueued.bufs[0], waitingQueued.bufs[1], waitingQueued.bufs[2]] := by decide +kernel

theorem waitingQueued_sound : Sound waitingQueued where
  configuration := by decide +kernel
  arenas := by decide +kernel
  running := rfl
  noFatal := rfl
  fixedBuffer := ⟨_, rfl, rfl, rfl, rfl, rfl, by decide +kernel⟩
  arrays := each_of_three waitingQueued_bufs (by decide +kernel) (by decide +kernel) (by decide +kernel)
  cursor := ⟨_, rfl, rfl⟩
  engine := ⟨by decide +kernel, by decide +kernel, by decide +kernel, by decide +kernel⟩
  position := ⟨_, 1, rfl, by decide +kernel, by decide +kernel, by decide +kernel⟩
  ring := ⟨[1], ⟨rfl, rfl⟩, by decide, each_of_three waitingQueued_bufs
    ⟨by decide +kernel, fun _ => ⟨1, _, rfl, rfl, rfl⟩, by decide +kernel⟩
    ⟨by decide +kernel, fun _ => ⟨0, _, rfl, rfl, rfl⟩, by decide +kernel⟩
    ⟨by decide +kernel, fun h => absurd h (by decide +kernel), by decide +kernel⟩⟩
  freeList := ⟨[2], ⟨rfl, rfl⟩, by decide, by decide +kernel, each_of_three waitingQueued_bufs (by decide +kernel) (by decide +kernel) (by decide +kernel)⟩
  poolBuffers := each_of_three waitingQueued_bufs (fun h => absurd rfl h) (fun _ => .inr (.inl ⟨rfl, rfl⟩))
    (fun _ => .inl ⟨rfl, rfl, rfl, rfl⟩)
  pending := by
    refine ⟨fun p => if p = 0 then some 1 else none, [1], fun h => if h = 1 then [0] else [], ⟨rfl, rfl⟩, by decide, ?_, ?_, ?_⟩
    · intro p
      have : waitingQueued.pkts.length = 2 := by decide +kernel
      simp only [List.mem_singleton, this, ite_eq_right_iff, reduceCtorEq, imp_false]
      omega
    · intro p h hp
      have : waitingQueued.bufs.length = 3 := by decide +kernel
      simp only at hp
      split at hp <;> cases hp
      omega
    · refine each_of_three waitingQueued_bufs ?_ ?_ ?_
      · refine ⟨rfl, by decide, by decide +kernel, fun p => ?_, by simp⟩
        simp only [Nat.reduceEqDiff, if_false, List.not_mem_nil, false_iff, not_and]
        intro _; split <;> simp
      · refine ⟨⟨rfl, rfl⟩, by decide, by decide +kernel, fun p => ?_, ?_⟩
        · have : waitingQueued.pkts.length = 2 := by decide +kernel
          simp only [if_true, List.mem_singleton, this, ite_eq_left_iff, reduceCtorEq, imp_false, not_not]
          omega
        · intro p k hp hk
          simp only [if_true, List.mem_singleton] at hp
          subst hp
          cases hk
          exact ⟨by decide +kernel, by decide +kernel⟩
      · refine ⟨rfl, by decide, by decide +kernel, fun p => ?_, by simp⟩
        simp only [Nat.reduceEqDiff, if_false, List.not_mem_nil, false_iff, not_and]
        intro _; split <;> simp
  scan := by decide +kernel

theorem waiting_bufs : waiting.bufs = [waiting.bufs[0], waiting.bufs[1], waiting.bufs[2]] := by decide +kernel

/-- A sound state in which MGR_INVOKE retires a buffer. -/
theorem waiting_sound : Sound waiting where
  configuration := by decide +kernel
  arenas := by decide +kernel
  running := rfl
  noFatal := rfl
  fixedBuffer := ⟨_, rfl, rfl, rfl, rfl, rfl, by decide +kernel⟩
  arrays := each_of_three waiting_bufs (by decide +kernel) (by decide +kernel) (by decide +kernel)
  cursor := ⟨_, rfl, rfl⟩
  engine := ⟨by decide +kernel, by decide +kernel, by decide +kernel, by decide +kernel⟩
  position := ⟨_, 1, rfl, by decide +kernel, by decide +kernel, by decide +kernel⟩
  ring := ⟨[1], ⟨rfl, rfl⟩, by decide, each_of_three waiting_bufs
    ⟨by decide +kernel, fun _ => ⟨1, _, rfl, rfl, rfl⟩, by decide +kernel⟩
    ⟨by decide +kernel, fun _ => ⟨0, _, rfl, rfl, rfl⟩, by decide +kernel⟩
    ⟨by decide +kernel, fun h => absurd h (by decide +kernel), by decide +kernel⟩⟩
  freeList := ⟨[2], ⟨rfl, rfl⟩, by decide, by decide +kernel, each_of_three waiting_bufs (by decide +kernel) (by decide +kernel) (by decide +kernel)⟩
  poolBuffers := each_of_three waiting_bufs (fun h => absurd rfl h) (fun _ => .inr (.inl ⟨rfl, rfl⟩))
    (fun _ => .inl ⟨rfl, rfl, rfl, rfl⟩)
  pending := by
    have hl : waiting.pkts.length = 2 := by decide +kernel
    refine ⟨fun _ => none, [0, 1], fun _ => [], ⟨rfl, rfl, rfl⟩, by decide, fun p => ?_, by simp, ?_⟩
    · simp only [List.mem_cons, List.not_mem_nil, or_false, hl, and_true]
      omega
    · exact each_of_three waiting_bufs ⟨rfl, by decide, by decide +kernel, by simp, by simp⟩
        ⟨rfl, by decide, by decide +kernel, by simp, by simp⟩ ⟨rfl, by decide, by decide +kernel, by simp, by simp⟩
  scan := by decide +kernel

/-! Witnesses: for each statement with hypotheses, and each clause of it, a state and operands that meet them. -/

theorem witness_DecodeInvertsEncode :
    (Instr.extend (.ok extend1)).wellFormed = true ∧ (Instr.extend (.malformed [])).wellFormed = true := by decide

theorem witness_EncodeInvertsDecode : decode { word := 0x003, frame := [0x03, 0x01, 0x00] } = .ok (.complete (.malformed [0x01, 0x00])) := by
  decide

/-- The state whose next input is a label. -/
def given (s : State) (l : StepLabel) : State := s.setAgenda [.step l]

theorem witness_LabelsOutsideTheTableAreRefused :
    (given fresh { word := 0x300, frame := [] }).agenda = [.step { word := 0x300, frame := [] }] ∧
    sourceOf 0x300 = 3 ∧ sourceOf 0x1FF = 1 ∧ operationOf 0x1FF ≠ 0 ∧ sourceOf 0x201 = 2 ∧ operationOf 0x201 ≠ 0 := by
  decide +kernel

theorem witness_running : fresh.halted = false ∧ configValid fresh.cfg = true ∧ fresh.agenda = [] ∧ fresh.latch = false := by
  decide +kernel

/-- The boundary opcodes of R94: 0x00, 0x0A and 0xFF, and the empty frame. -/
theorem witness_UnassignedOpcodeAnswersBadOpcode :
    (∀ op t, [(0x0A : Byte)] = op :: t → op = 0x00 ∨ 0x0A ≤ op.toNat) ∧ (∀ op t, ([] : List Byte) = op :: t → op = 0x00 ∨ 0x0A ≤ op.toNat) ∧
    (given fresh { word := 0x00A, frame := [0x0A] }).agenda = [.step { word := (([0x0A] : List Byte).headD 0).setWidth 10, frame := [0x0A] }] ∧
    (given fresh { word := 0x000, frame := [] }).agenda = [.step { word := (([] : List Byte).headD 0).setWidth 10, frame := [] }] := by
  refine ⟨fun op t h => ?_, fun op t h => ?_, rfl, rfl⟩
  · cases h; exact .inr (by decide)
  · cases h

/-- A next state that is not halted: ResultFramesHaveFixedLength, TrackIsToggledByTickOnly, StepsWriteOnlyTheirGroups and the other
statements over every instruction. -/
theorem witness_next : ∃ t, exec .tick fresh = .next t ∧ t.halted = false := next_of_seen (by decide +kernel)

theorem witness_step : ∃ t, step waitingQueued = .next t ∨ step waiting = .next t ∨ step fresh = .next t :=
  (next_of_seen (f := State.halted) (v := false) (by decide +kernel)).imp fun _ h => .inr (.inr h.1)

theorem witness_StepRunsTheDecodedInstruction :
    configValid (given fresh { word := 0x100, frame := [] }).cfg = true ∧
    (given fresh { word := 0x100, frame := [] }).agenda = [.step { word := 0x100, frame := [] }] ∧
    decode { word := 0x100, frame := [] } = .ok .tick := by decide +kernel

theorem witness_StepWithoutInput :
    configValid waiting.cfg = true ∧ waiting.agenda = [] ∧ waiting.latch = true ∧ fresh.agenda = [] ∧ fresh.latch = false := by
  decide +kernel

theorem witness_ResetEventRestoresEverything :
    configValid (waiting.setAgenda [.reset]).cfg = true ∧ (waiting.setAgenda [.reset]).agenda = [.reset] := by decide +kernel

/-- R6: two handles at least. -/
theorem witness_BadConfigurationIsRefused : configValid ({ fresh with cfg := { tiny with numBuffers := 1 } } : State).cfg = false := by
  decide +kernel

/-- A state in which TICK takes a fatal fault: the engine stands on the last entry. -/
def atLastEntry : State := lastHalf fresh 19

/-- A state in which MGR_INVOKE takes `F_ENCODE`: the queued packet has no preamble. -/
def unencodable : State := waitingQueued.updPkt 0 fun k => { k with pre := 0 }

theorem witness_FatalFaultDiscardsTheStep :
    (∃ t, exec .tick atLastEntry = .next t ∧ t.halted = true) ∧ (atLastEntry.fatalEntry .index).halted = true :=
  ⟨next_of_seen (by decide +kernel), rfl⟩

theorem witness_OnlyResetLeavesTheHalt :
    ((fresh.fatalEntry .ring).setAgenda [.reset]).halted = true ∧
    ∃ t, step ((fresh.fatalEntry .ring).setAgenda [.reset]) = .next t ∧ t.halted = false :=
  ⟨rfl, next_of_seen (by decide +kernel)⟩

theorem witness_TickFatalCauses_index :
    atLastEntry.halted = false ∧ atLastEntry.eng.half = 1 ∧ atLastEntry.eng.left = 0 ∧
    atLastEntry.cfg.maxTransitions ≤ atLastEntry.eng.idx + 1 := by decide +kernel

/-- The engine at the terminator of buffer 1's array, buffer 1 being in the given state. -/
def atTerminator (st : BufState) : State :=
  let s := onRing st false
  lastHalf (s.setEng { s.eng with cursor := 1 }) 8

theorem witness_TickFatalCauses_badState :
    (atTerminator .load).halted = false ∧ (atTerminator .load).eng.half = 1 ∧ (atTerminator .load).eng.left = 0 ∧
    (atTerminator .load).eng.idx + 1 < (atTerminator .load).cfg.maxTransitions ∧
    ∃ b, (atTerminator .load).bufs[(atTerminator .load).eng.cursor]? = some b ∧
      b.arr[(atTerminator .load).eng.idx + 1]? = some 0 ∧ b.state.radiable = false :=
  ⟨rfl, rfl, rfl, by decide +kernel, _, rfl, rfl, rfl⟩

/-- A radiable cursor buffer whose link is `NIL`, leads outside the handle space, or to an `EMPTY` buffer. -/
def brokenLink (l : Option Nat) : State := (atTerminator .run).updBuf 1 fun b => { b with next := l }

theorem witness_TickFatalCauses_ring :
    (∃ b, (brokenLink none).bufs[(brokenLink none).eng.cursor]? = some b ∧ b.arr[(brokenLink none).eng.idx + 1]? = some 0 ∧
      b.state.radiable = true ∧ b.next = none) ∧
    (∃ b, (brokenLink (some 3)).bufs[(brokenLink (some 3)).eng.cursor]? = some b ∧ b.next = some 3 ∧
      (brokenLink (some 3)).bufs[3]? = none) ∧
    ∃ b c, (brokenLink (some 2)).bufs[(brokenLink (some 2)).eng.cursor]? = some b ∧ b.next = some 2 ∧
      (brokenLink (some 2)).bufs[2]? = some c ∧ c.state = .empty :=
  ⟨⟨_, rfl, rfl, rfl, rfl⟩, ⟨_, rfl, rfl, rfl⟩, _, _, rfl, rfl, rfl, rfl⟩

/-- The buffer after the one being played is in a reserved state. -/
def reservedNext : State := (brokenLink (some 2)).updBuf 2 fun b => { b with state := .reserved5 }

theorem witness_TickFatalCauses_reserved :
    0 < reservedNext.cfg.numBuffers ∧ ∃ b c, reservedNext.bufs[reservedNext.eng.cursor]? = some b ∧
      b.arr[reservedNext.eng.idx + 1]? = some 0 ∧ b.state.radiable = true ∧ b.next = some 2 ∧ reservedNext.bufs[2]? = some c ∧
      5 ≤ c.state.code.toNat :=
  ⟨by decide +kernel, _, _, rfl, rfl, rfl, rfl, rfl, by decide +kernel⟩

/-- The next radiable buffer's array is empty. -/
def emptyIdle : State := (atTerminator .run).updBuf 0 fun b => { b with arr := [0] }

theorem witness_TickFatalCauses_emptyArray :
    0 < emptyIdle.cfg.numBuffers ∧ ∃ b c, emptyIdle.bufs[emptyIdle.eng.cursor]? = some b ∧ b.next = some 0 ∧
      0 ≠ emptyIdle.eng.cursor ∧ emptyIdle.bufs[0]? = some c ∧ c.state.radiable = true ∧ c.arr[0]? = some 0 :=
  ⟨by decide +kernel, _, _, rfl, rfl, by decide +kernel, rfl, rfl, rfl⟩

theorem witness_FatalFaultsHaveTheirSources :
    (∃ t, exec .tick atLastEntry = .next t ∧ (t.halted, t.fatalCode) = (true, 4)) ∧
    (∃ t, exec .tick emptyIdle = .next t ∧ (t.halted, t.fatalCode) = (true, 2)) ∧
    ∃ t, exec .mgrInvoke unencodable = .next t ∧ (t.halted, t.fatalCode) = (true, 3) :=
  ⟨next_of_seen (by decide +kernel), next_of_seen (by decide +kernel), next_of_seen (by decide +kernel)⟩

theorem witness_ResetValues : configValid tiny = true ∧ configValid Config.default = true := by decide +kernel

/-- SoundnessIsKept, and with it ArenasAndConfigurationAreKept, FixedBufferIsPermanent, ArraysStayWellFormed and
EngineRegistersStayConsistent, whose hypotheses are parts of soundness. -/
theorem witness_SoundnessIsKept : Sound waitingQueued ∧ ∃ t, step waitingQueued = .next t ∨ step (waitingQueued.setAgenda [.reset]) = .next t :=
  ⟨waitingQueued_sound, (next_of_seen (f := State.halted) (v := false) (by decide +kernel)).imp fun _ h => .inr h.1⟩

theorem witness_SoundnessIsKept_tick :
    ∃ t, step (given waitingQueued { word := 0x100, frame := [] }) = .next t ∧ t.halted = false := next_of_seen (by decide +kernel)

/-- Invariant 7: an overwrite of the one live buffer of an identity is no step that may give it a second one. -/
theorem witness_SoundnessIsKept_identity :
    Sound waiting ∧ OneBufferFor waiting 3 .mobile ∧ ¬ opensAnother (.acquire (.ok (acquire3 true))) waiting 3 .mobile ∧
    ∃ t, exec (.acquire (.ok (acquire3 true))) waiting = .next t ∧ t.result = [0x00, 0x01] := by
  refine ⟨waiting_sound, ?_, ?_, next_of_seen (by decide +kernel)⟩
  · have only (h : Nat) (b : Buffer) : waiting.bufs[h]? = some b → Targets b 3 .mobile → h = 1 :=
      each_of_three waiting_bufs (P := fun h b => Targets b 3 .mobile → h = 1) (fun ⟨h, _⟩ => absurd h (by decide +kernel))
        (fun _ => rfl) (fun ⟨h, _⟩ => absurd h (by decide +kernel)) h b
    exact fun h g b c hb hc tb tc => (only h b hb tb).trans (only g c hc tc).symm
  · rintro ⟨_, _, h | ⟨h, b, hb, hl, ht⟩⟩
    · exact absurd h (by decide)
    · exact each_of_three waiting_bufs (P := fun _ b => b.linked = false → Targets b 3 .mobile → False)
        (fun h => absurd h (by decide +kernel)) (fun h => absurd h (by decide +kernel))
        (fun _ h => absurd h.1 (by decide +kernel)) h b hb hl ht

/-- SoundBlockNeverStops, ManagerServicesEachBuffer and ManagerDrains: a buffer to load, and a buffer to retire. -/
theorem witness_ManagerServicesEachBuffer :
    (Sound waitingQueued ∧ waitingQueued.latch = true ∧ waitingQueued.loadedRecord 1 = some 0) ∧
    Sound waiting ∧ waiting.latch = true ∧ waiting.retires 1 = true := ⟨⟨waitingQueued_sound, rfl, rfl⟩, waiting_sound, rfl, rfl⟩

theorem witness_BufferStatesMoveAsTheTableSays :
    ∃ t, exec .mgrInvoke waitingQueued = .next t ∧ ((t.bufs[1]?).map (·.state), (waitingQueued.bufs[1]?).map (·.state)) = (some .run, some .load) :=
  next_of_seen (by decide +kernel)

/-- A class (a) and a class (b) failure. -/
theorem witness_FailedCommandChangesNothing :
    (∃ t, exec (.acquire (.ok (acquire3 false))) (fresh.setFreeHead none) = .next t ∧
      (t.halted, t.result.head?) = (false, some Status.noBuffer.code)) ∧
    (∃ t, exec (.complete (.ok 0)) fresh = .next t ∧ (t.halted, t.result.head?) = (false, some Status.badHandle.code)) ∧
    Status.noBuffer.classA = true ∧ Status.badHandle.classB = true ∧
    ¬ ∃ h b, Instr.complete (.ok 0) = .complete (.ok h) ∧ Accepts fresh h.toNat b ∧ b.linked = false ∧ b.phead = none := by
  refine ⟨next_of_seen (by decide +kernel), next_of_seen (by decide +kernel), rfl, rfl, ?_⟩
  rintro ⟨h, b, heq, ha, _⟩
  cases heq
  exact absurd ha.1 (by decide)

theorem witness_StepsWriteOnlyTheirGroups :
    (∀ (h : Nat) (b : Buffer), waitingQueued.bufs[h]? = some b → b.state = .empty → b.linked = false) ∧
    Group.engine ∉ writes .mgrInvoke :=
  ⟨each_of_three waitingQueued_bufs (by decide +kernel) (by decide +kernel) (by decide +kernel), by decide⟩

theorem witness_ArraysUnchangedWhilePlayed :
    (∃ t, exec (.extend (.ok extend1)) (onRing .run true) = .next t ∧ ((t.bufs[1]?).map (·.state)) = some .reload) ∧
    ((onRing .run true).bufs[1]?).map (·.state.radiable) = some true :=
  ⟨next_of_seen (by decide +kernel), by decide +kernel⟩

theorem witness_TickEndsTheFirstHalf : fresh.halted = false ∧ fresh.eng.half = 2 := by decide +kernel

/-- Inside an entry, and at the end of one with the next not 0. -/
theorem witness_TickMovesWithinTheArray :
    (((lastHalf fresh 2).setEng { (lastHalf fresh 2).eng with left := 8 }).eng.half = 1 ∧
      0 < ((lastHalf fresh 2).setEng { (lastHalf fresh 2).eng with left := 8 }).eng.left) ∧
    (lastHalf fresh 0).eng.half = 1 ∧ (lastHalf fresh 0).eng.left = 0 ∧
    (lastHalf fresh 0).eng.idx + 1 < (lastHalf fresh 0).cfg.maxTransitions ∧
    ∃ b, (lastHalf fresh 0).bufs[(lastHalf fresh 0).eng.cursor]? = some b ∧ b.arr[(lastHalf fresh 0).eng.idx + 1]? = some 1 :=
  ⟨by decide +kernel, rfl, rfl, by decide +kernel, _, rfl, by decide +kernel⟩

/-- The idle buffer's terminator, with buffer 1 waiting in `LOAD`: it is passed over, and the idle buffer is played again. -/
theorem witness_TickEndsTheTraversal :
    let s := lastHalf waiting 2
    s.halted = false ∧ s.eng.half = 1 ∧ s.eng.left = 0 ∧ s.eng.idx + 1 < s.cfg.maxTransitions ∧ ∃ b c,
      s.bufs[s.eng.cursor]? = some b ∧ b.arr[s.eng.idx + 1]? = some 0 ∧ b.state.radiable = true ∧
      Chain s.nextOf (some 0) b.next [1] ∧ [1].length < s.cfg.numBuffers ∧
      (∀ h ∈ [1], ∃ d, (s.bufs.set s.eng.cursor (afterTraversal b))[h]? = some d ∧ d.state = .load) ∧
      (s.bufs.set s.eng.cursor (afterTraversal b))[0]? = some c ∧ c.state.radiable = true ∧ c.arr[0]? = some 1 := by
  refine ⟨rfl, rfl, rfl, by decide +kernel, _, _, rfl, by decide +kernel, rfl, ⟨rfl, rfl⟩, by decide +kernel, ?_, rfl, rfl, by decide +kernel⟩
  intro h hh
  rw [List.mem_singleton.1 hh]
  exact ⟨_, rfl, rfl⟩

/-- Every ending of a traversal R162 lists, one buffer state and counter each. -/
theorem witness_afterTraversal :
    ∀ b ∈ (onRing .run false).bufs[1]?, (afterTraversal b).state = .load ∧
      (afterTraversal { b with repeatCount := 2 }).state = .run ∧ (afterTraversal { b with repeatCount := 2 }).repeatCount = 1 ∧
      afterTraversal { b with repeatCount := 0 } = { b with repeatCount := 0 } ∧
      (afterTraversal { b with state := .reload, repeatCount := 9 }).state = .load ∧
      (afterTraversal { b with state := .reload, repeatCount := 9 }).repeatCount = 9 := by decide +kernel

theorem witness_WaveformOfAnArray :
    Sound waitingQueued ∧ waitingQueued.eng.half = 2 ∧ waitingQueued.eng.idx = 0 ∧
    ∃ b, waitingQueued.bufs[waitingQueued.eng.cursor]? = some b ∧ b.arr[0]? = some (waitingQueued.eng.left + 1) ∧
      (arrayBits b.arr)[0]? = some true ∧ (arrayBits b.arr)[1]? = some false :=
  ⟨waitingQueued_sound, rfl, rfl, _, rfl, by decide +kernel, by decide +kernel, by decide +kernel⟩

theorem witness_ManagerIsEnabledByTheLatch :
    fresh.halted = false ∧ fresh.latch = false ∧ waiting.halted = false ∧ waiting.latch = true := by decide +kernel

theorem inRange3 (ow : Bool) : InRange (acquire3 ow).pol (acquire3 ow).addr := .inl ⟨rfl, show (3 : Nat) ≤ 16383 by decide⟩

/-- The boundary addresses of R7. -/
theorem witness_InRange :
    InRange .mobile 16383 ∧ ¬ InRange .mobile 16384 ∧ InRange .accessory 511 ∧ ¬ InRange .accessory 512 := by
  refine ⟨.inl ⟨rfl, by decide⟩, ?_, .inr ⟨rfl, by decide⟩, ?_⟩
  · rintro (⟨_, h⟩ | ⟨h, _⟩)
    · exact absurd h (by decide)
    · cases h
  · rintro (⟨h, _⟩ | ⟨_, h⟩)
    · cases h
    · exact absurd h (by decide)

theorem fresh_ring : RingIs fresh [] := ⟨rfl, by decide, by decide +kernel, by simp⟩

theorem fresh_noLiveTarget : NoLiveTarget fresh 3 .mobile := ⟨[], fresh_ring, by simp⟩

theorem onRing_ring : RingIs (onRing .run false) [1] := by
  refine ⟨⟨rfl, rfl⟩, by decide, by decide +kernel, fun h hh => ?_⟩
  rw [List.mem_singleton.1 hh]
  exact ⟨_, rfl, rfl⟩

theorem onRing_firstLive : ∃ b, FirstLiveTarget (onRing .run false) 3 .mobile 1 b ∧ b.phead = none ∧ b.linked = true :=
  ⟨_, ⟨rfl, rfl, rfl, [], [], onRing_ring, by simp⟩, rfl, rfl⟩

theorem fresh_pendingFree : PendingListIs fresh fresh.pool.pfreeHead [0, 1] :=
  ⟨⟨rfl, rfl, rfl⟩, by decide, by decide +kernel, by decide +kernel⟩

theorem emptyQueue (s : State) : PendingListIs s none [] := ⟨rfl, by decide, by simp, by simp⟩

theorem witness_AcquireTakesAFreeBuffer :
    fresh.halted = false ∧ InRange (acquire3 true).pol (acquire3 true).addr ∧ NoLiveTarget fresh (acquire3 true).addr (acquire3 true).pol ∧
    fresh.pool.freeHead = some 1 ∧ ∃ b, fresh.bufs[1]? = some b ∧ b.state = .empty :=
  ⟨rfl, inRange3 true, fresh_noLiveTarget, rfl, _, rfl, rfl⟩

/-- The live buffer has one packet in its queue. -/
theorem witness_AcquireReturnsTheLiveBuffer :
    waitingQueued.halted = false ∧ (acquire3 true).ow = true ∧ ∃ b, FirstLiveTarget waitingQueued 3 .mobile 1 b ∧
      PendingListIs waitingQueued b.phead [0] := by
  refine ⟨rfl, rfl, _, ⟨rfl, rfl, rfl, [], [], ⟨⟨rfl, rfl⟩, by decide, by decide +kernel, fun h hh => ?_⟩, by simp⟩, ⟨rfl, rfl⟩, by decide,
    by decide +kernel, by decide +kernel⟩
  rw [List.mem_singleton.1 hh]
  exact ⟨_, rfl, rfl⟩

theorem witness_AcquireFailures :
    fresh.halted = false ∧ ¬ InRange .mobile 16384 ∧ InRange (acquire3 false).pol (acquire3 false).addr ∧ (acquire3 false).ow = false ∧
    (fresh.setFreeHead none).pool.freeHead = none := ⟨rfl, witness_InRange.2.1, inRange3 false, rfl, rfl⟩

/-- Handle 0, a handle past the arena, and a closed buffer (R62). -/
theorem witness_HandlesAreChecked :
    (¬ ∃ b, Accepts fresh (0 : Byte).toNat b) ∧ (¬ ∃ b, Accepts fresh (3 : Byte).toNat b) ∧ ¬ ∃ b, Accepts fresh (1 : Byte).toNat b := by
  refine ⟨fun ⟨b, h⟩ => absurd h.1 (by decide), fun ⟨b, h⟩ => absurd h.2.1 (by decide +kernel), fun ⟨b, h⟩ => ?_⟩
  have h1 := h.2.2.1
  cases h1
  exact absurd h.2.2.2 (by decide +kernel)

theorem acquired_accepts : ∃ b, Accepts acquired 1 b ∧ b.linked = false ∧ b.state = .load ∧ b.phead = none :=
  ⟨_, ⟨by decide, by decide +kernel, rfl, rfl⟩, rfl, rfl, rfl⟩

/-- An empty queue, and a queue with a tail. -/
theorem witness_ExtendAppendsThePacket :
    acquired.halted = false ∧ (∃ b, Accepts acquired extend1.h.toNat b ∧ b.state.code.toNat < 5 ∧ b.phead = none) ∧
    (encodePacket acquired.cfg extend1.d extend1.pre.toNat extend1.post.toNat).isOk = true ∧ acquired.pool.pfreeHead = some 0 ∧
    (∃ k, acquired.pkts[0]? = some k) ∧
    (∃ b, Accepts queued extend1.h.toNat b ∧ b.state.code.toNat < 5 ∧ b.phead ≠ none ∧ b.ptail = some 0) ∧ 0 < queued.pkts.length ∧
    queued.pool.pfreeHead = some 1 ∧ ∃ k, queued.pkts[1]? = some k :=
  ⟨rfl, ⟨_, ⟨by decide, by decide +kernel, rfl, rfl⟩, by decide +kernel, rfl⟩, by decide +kernel, rfl, ⟨_, rfl⟩,
    ⟨_, ⟨by decide, by decide +kernel, rfl, rfl⟩, by decide +kernel, by decide +kernel, rfl⟩, by decide +kernel, rfl, _, rfl⟩

/-- Preamble 0; a postamble that overflows its run (R113: two trailing ones and 254); no pending record. -/
theorem witness_ExtendFailures :
    (∃ b, Accepts acquired 1 b) ∧ ¬ (1 ≤ (0 : Byte).toNat) ∧ encodePacket acquired.cfg [0x03] 1 254 = .overflow ∧
    (encodePacket acquired.cfg [0x55] 1 1).isOk = true ∧ (acquired.setPfreeHead none).pool.pfreeHead = none :=
  ⟨acquired_accepts.imp fun _ h => h.1, by decide, by decide +kernel, by decide +kernel, rfl⟩

theorem witness_CompleteStartsANewBuffer :
    queued.halted = false ∧ ∃ b k cb nb, Accepts queued (1 : Byte).toNat b ∧ b.linked = false ∧ b.state = .load ∧ b.phead = some 0 ∧
      queued.pkts[0]? = some k ∧ k.bytes.length = k.len.toNat ∧
      encodePacket queued.cfg k.bytes k.pre.toNat k.post.toNat = .ok array55 ∧ queued.bufs[queued.eng.cursor]? = some cb ∧
      cb.next = some 0 ∧ queued.bufs[0]? = some nb ∧ (1 : Byte).toNat ≠ queued.eng.cursor ∧ (1 : Byte).toNat ≠ 0 :=
  ⟨rfl, _, _, _, _, ⟨by decide, by decide +kernel, rfl, rfl⟩, rfl, rfl, rfl, rfl, by decide +kernel, by decide +kernel, rfl, rfl, rfl,
    by decide +kernel, by decide⟩

/-- CompleteReturnsAnEmptyBuffer and CancelFreesANewBuffer. -/
theorem witness_CompleteReturnsAnEmptyBuffer :
    acquired.halted = false ∧ ∃ b, Accepts acquired (1 : Byte).toNat b ∧ b.linked = false ∧ b.state = .load ∧ b.phead = none ∧
      PendingListIs acquired b.phead [] :=
  ⟨rfl, _, ⟨by decide, by decide +kernel, rfl, rfl⟩, rfl, rfl, rfl, emptyQueue _⟩

/-- CompleteClosesAReusedBuffer and CancelClosesAReusedBuffer, in `FIXED`. -/
theorem witness_CompleteClosesAReusedBuffer_fixed :
    ∃ b, Accepts (onRing .fixed true) (1 : Byte).toNat b ∧ b.linked = true ∧ b.state = .fixed ∧
      PendingListIs (onRing .fixed true) b.phead [] :=
  ⟨_, ⟨by decide, by decide +kernel, rfl, rfl⟩, rfl, rfl, emptyQueue _⟩

/-- CompleteClosesAReusedBuffer and CancelClosesAReusedBuffer, in `RUN` and in `LOAD`. -/
theorem witness_CompleteClosesAReusedBuffer :
    (∃ b, Accepts (onRing .run true) (1 : Byte).toNat b ∧ b.linked = true ∧ b.state.live = true ∧ PendingListIs (onRing .run true) b.phead []) ∧
    ∃ b, Accepts (onRing .load true) (1 : Byte).toNat b ∧ b.linked = true ∧ b.state = .load :=
  ⟨⟨_, ⟨by decide, by decide +kernel, rfl, rfl⟩, rfl, rfl, emptyQueue _⟩, _, ⟨by decide, by decide +kernel, rfl, rfl⟩, rfl, rfl⟩

theorem witness_CancelUndoesAcquire :
    1 ≤ 1 ∧ 1 ≤ fresh.cfg.numBuffers - 1 ∧ fresh.cfg.numBuffers ≤ 255 ∧
    ∃ t, exec (.acquire (.ok (acquire3 true))) fresh = .next t ∧ t.result = [0x00, 0x01] :=
  ⟨by decide, by decide +kernel, by decide +kernel, next_of_seen (by decide +kernel)⟩

theorem witness_SubmitStartsANewBuffer :
    fresh.halted = false ∧ InRange (submit3 true).pol (submit3 true).addr ∧ NoLiveTarget fresh 3 .mobile ∧
    encodePacket fresh.cfg (submit3 true).d (submit3 true).pre.toNat (submit3 true).post.toNat = .ok array55 ∧
    (submit3 true).d.length ≤ 255 ∧ fresh.pool.freeHead = some 1 ∧ 1 ≤ fresh.cfg.numBuffers - 1 ∧ fresh.pool.pfreeHead = some 0 ∧
    ∃ b k cb, fresh.bufs[1]? = some b ∧ b.state = .empty ∧ fresh.pkts[0]? = some k ∧ fresh.bufs[fresh.eng.cursor]? = some cb ∧
      cb.next = some 0 ∧ 1 ≠ fresh.eng.cursor :=
  ⟨rfl, inRange3 true, fresh_noLiveTarget, by decide +kernel, by decide, rfl, by decide +kernel, rfl, _, _, _, rfl, rfl, rfl, rfl, rfl,
    by decide +kernel⟩

/-- The old queue's record 0 is used again. -/
theorem witness_SubmitOverwritesTheLiveBuffer :
    (submit3 true).ow = true ∧ 1 ≤ waitingQueued.cfg.numBuffers - 1 ∧
    (encodePacket waitingQueued.cfg (submit3 true).d (submit3 true).pre.toNat (submit3 true).post.toNat).isOk = true ∧
    PendingListIs waitingQueued waitingQueued.pool.pfreeHead [1] ∧ (∀ j ∈ [0], j ∉ [1]) ∧ [0].reverse ++ [1] = 0 :: [1] ∧
    ∃ b, waitingQueued.bufs[1]? = some b ∧ b.linked = true ∧ PendingListIs waitingQueued b.phead [0] :=
  ⟨rfl, by decide +kernel, by decide +kernel, ⟨⟨rfl, rfl⟩, by decide, by decide +kernel, by decide +kernel⟩, by decide, rfl, _, rfl, rfl,
    ⟨rfl, rfl⟩, by decide, by decide +kernel, by decide +kernel⟩

theorem witness_SubmitFailures :
    ¬ InRange .mobile 16384 ∧ ¬ (1 ≤ (0 : Byte).toNat) ∧ encodePacket fresh.cfg [0x03] 1 254 = .overflow ∧
    (encodePacket fresh.cfg [0x55] 1 1).isOk = true ∧ NoLiveTarget (fresh.setPfreeHead none) 3 .mobile ∧
    (fresh.setFreeHead none).pool.freeHead = none ∧ (fresh.setPfreeHead none).pool.freeHead = some 1 ∧
    (fresh.setPfreeHead none).pool.pfreeHead = none ∧
    ∃ b, FirstLiveTarget ((onRing .run false).setPfreeHead none) 3 .mobile 1 b ∧ b.phead = none :=
  ⟨witness_InRange.2.1, by decide, by decide +kernel, by decide +kernel, fresh_noLiveTarget, rfl, rfl, rfl,
    onRing_firstLive.imp fun _ h => ⟨h.1, h.2.1⟩⟩

theorem witness_SubmitIsAcquireExtendComplete :
    configValid fresh.cfg = true ∧ ∃ t, exec (.submit (.ok (submit3 true))) fresh = .next t ∧ (t.halted, t.result) = (false, [0x00, 0x01]) :=
  ⟨by decide +kernel, next_of_seen (by decide +kernel)⟩

theorem witness_FreeBuffersCountsTheFreeList_loop :
    freeLoop.halted = false ∧ Chain freeLoop.fnextOf (some 1) freeLoop.pool.freeHead [1, 2] ∧ [1, 2].Nodup ∧
    (∃ h ∈ [1, 2], some 1 = some h) ∧ ∀ h ∈ [1, 2], h < freeLoop.bufs.length :=
  ⟨rfl, ⟨rfl, rfl, rfl⟩, by decide, ⟨1, by decide, rfl⟩, by decide +kernel⟩

theorem witness_FreeBuffersCountsTheFreeList :
    Chain fresh.fnextOf none fresh.pool.freeHead [1, 2] ∧ ∀ h ∈ [1, 2], h < fresh.bufs.length := ⟨⟨rfl, rfl, rfl⟩, by decide +kernel⟩

/-- At the last live buffer, and just past it. -/
theorem witness_ScanNextWalksTheRing :
    RingIs (onRing .run false) [1] ∧ [1][((onRing .run false).scanPos).toNat]? = some 1 ∧
    [1].length ≤ (((onRing .run false).setScanPos 1).scanPos).toNat := ⟨onRing_ring, by decide +kernel, by decide +kernel⟩

/-- EncodeStandsForThePacket, EncodeIsWellFormed and EncodeIsInjective. -/
theorem witness_EncodeStandsForThePacket : encodePacket tiny [0x55] 1 1 = .ok array55 := by decide +kernel

theorem witness_EncodeWorstCase :
    argsOk Config.default [0xAA, 0xAA].length 14 1 = true ∧ (∀ b ∈ [(0xAA : Byte), 0xAA], b = 0xAA) ∧
    8 * Config.default.maxCommand + 4 ≤ Config.default.maxTransitions ∧ Config.default.runWidth = 8 ∧
    Config.default.maxCommand ≤ 28 := by decide +kernel

/-- R113 at its boundary: eight trailing ones and 247 fit, and 248 do not. -/
theorem witness_EncodeWorstCase_boundary :
    (encodePacket Config.default [0xFF] 14 247).isOk = true ∧ encodePacket Config.default [0xFF] 14 248 = .overflow := by decide +kernel

end Sys2Proof.Tests
end

section
/-! PROOFS. The step of the whole block: what `fetch` takes next, and that `step` adds nothing to `exec` but the check of the
configuration (R11, R220). -/

namespace Sys2Proof.Machine

/-! What the block takes next, one equation per input it can find. -/

theorem fetch_of_decode {s : State} {l : StepLabel} {rest : List Input} {i : Instr} (ha : s.agenda = .step l :: rest)
    (hd : decode l = .ok i) : fetch s = .run i (s.setAgenda rest) := by
  simp only [fetch, ha, hd]

theorem fetch_of_agenda_nil {s : State} (ha : s.agenda = []) : fetch s = fetchIdle s := by
  simp only [fetch, ha]

theorem fetchIdle_of_latch_clear {s : State} (hl : s.latch = false) : fetchIdle s = .run .tick s := by
  simp only [fetchIdle, hl, Bool.false_eq_true, if_false]

theorem fetchIdle_of_latch_set {s : State} (hl : s.latch = true) :
    fetchIdle s = .run (if Config.managerFirst s.schedCount then .mgrInvoke else .tick) s.countChoice := by
  simp only [fetchIdle, hl, if_true]
  split <;> rfl

/-! The configuration check around a step. -/

theorem whenConfigured_of_valid {s : State} (hc : configValid s.cfg = true) (o : Host.Outcome State Fault Refusal) :
    whenConfigured s o = o := if_pos hc

theorem whenConfigured_of_invalid {s : State} (hc : configValid s.cfg = false) (o : Host.Outcome State Fault Refusal) :
    whenConfigured s o = .refused .configurationRefused := if_neg (Bool.eq_false_iff.mp hc)

/-- Under a valid configuration `step` is the meaning of the instruction that is taken, and no more. -/
theorem step_of_fetch_run {s t : State} {i : Instr} (hc : configValid s.cfg = true) (hf : fetch s = .run i t) :
    step s = exec i t := by
  simp only [step, hf, whenConfigured_of_valid hc]

/-- Under an invalid configuration no input has a step, whichever of the three kinds it is. -/
theorem step_refused_of_invalid {s : State} (hc : configValid s.cfg = false) : ∃ r, step s = .refused r := by
  unfold step
  cases fetch s with
  | run i t => exact ⟨_, whenConfigured_of_invalid hc _⟩
  | resetTo t => exact ⟨_, whenConfigured_of_invalid hc _⟩
  | reject why => exact ⟨_, rfl⟩

/-- Settles O8: `fetch` hands over the decoded instruction with the label taken off the agenda. -/
theorem stepRunsTheDecodedInstruction : Obligations.StepRunsTheDecodedInstruction :=
  fun _ _ _ _ hc ha hd => step_of_fetch_run hc (fetch_of_decode ha hd)

/-- Settles O9: with nothing on the agenda `fetch` is `fetchIdle`, which asks the latch and then the free value. -/
theorem stepWithoutInput : Obligations.StepWithoutInput := by
  intro s hc ha
  have hf : fetch s = fetchIdle s := fetch_of_agenda_nil ha
  constructor
  · intro hl
    exact step_of_fetch_run hc (hf.trans (fetchIdle_of_latch_clear hl))
  · intro hl
    have hs := step_of_fetch_run hc (hf.trans (fetchIdle_of_latch_set hl))
    exact hs.trans (apply_ite (exec · s.countChoice) _ _ _)

/-- Settles O11: whatever input `fetch` finds, the check of the configuration or the decoder refuses the step. -/
theorem badConfigurationIsRefused : Obligations.BadConfigurationIsRefused :=
  fun _ hc => step_refused_of_invalid hc

end Sys2Proof.Machine
end

section
/-! PROOFS. What ENCODE's arrays and the well-formed arrays of R83 hold, entry by entry. -/

namespace Sys2Proof.Machine

/-! ENCODE. -/

theorem pushN_newest_ne_nil (r : Runs) (v : Bool) (k : Nat) : (pushN r v k).newest ≠ [] := by
  unfold pushN
  split
  · split <;> simp
  · simp

/-- A run that is pushed is not empty, and a run never shrinks (R110). -/
theorem pushN_positive {r : Runs} {v : Bool} {k : Nat} (hr : ∀ e ∈ r.newest, 0 < e) (hk : 0 < k) :
    ∀ e ∈ (pushN r v k).newest, 0 < e := by
  unfold pushN
  split
  next o older ho =>
    rw [ho, List.forall_mem_cons] at hr
    split
    · exact List.forall_mem_cons.2 ⟨by omega, hr.2⟩
    · exact List.forall_mem_cons.2 ⟨hk, List.forall_mem_cons.2 hr⟩
  next => exact List.forall_mem_cons.2 ⟨hk, by simp⟩

theorem foldl_push_positive (bits : List Bool) {r : Runs} (hr : ∀ e ∈ r.newest, 0 < e) :
    ∀ e ∈ (bits.foldl push r).newest, 0 < e := by
  induction bits generalizing r with
  | nil => exact hr
  | cons v bits ih => exact ih (pushN_positive hr Nat.one_pos)

theorem packetRuns_positive {d : List Byte} {pre post : Nat} (hpre : 0 < pre) (hpost : 0 < post) :
    ∀ e ∈ packetRuns d pre post, 0 < e := by
  intro e he
  exact pushN_positive (foldl_push_positive _ (by simpa using hpre)) hpost e (List.mem_reverse.1 he)

theorem packetRuns_ne_nil (d : List Byte) (pre post : Nat) : packetRuns d pre post ≠ [] :=
  mt List.reverse_eq_nil_iff.1 (pushN_newest_ne_nil _ _ _)

/-- The bounds that `ARGS_OK` puts on its operands (R111). -/
theorem argsOk_bounds {c : Config} {n pre post : Nat} (h : argsOk c n pre post = true) :
    0 < pre ∧ 0 < post ∧ n ≤ c.maxCommand := by
  simp only [argsOk, Bool.and_eq_true, decide_eq_true_eq] at h
  omega

/-- ENCODE answers an array (R110). -/
theorem encodePacket_eq_ok {c : Config} {d : List Byte} {pre post : Nat} {a : List Nat} :
    encodePacket c d pre post = .ok a ↔ argsOk c d.length pre post = true ∧
      (∀ e ∈ packetRuns d pre post, e ≤ c.runMax) ∧ (packetRuns d pre post).length + 1 ≤ c.maxTransitions ∧
      a = packetRuns d pre post ++ [0] := by
  unfold encodePacket
  cases argsOk c d.length pre post
  · simp
  · by_cases hm : (packetRuns d pre post).any (c.runMax < ·) = true
    · have : ¬ ∀ e ∈ packetRuns d pre post, e ≤ c.runMax := by simpa using hm
      simp [hm, this]
    · have : ∀ e ∈ packetRuns d pre post, e ≤ c.runMax := by simpa using hm
      by_cases hl : c.maxTransitions < (packetRuns d pre post).length + 1
      · simp [hm, hl, Nat.not_le.2 hl]
      · simpa [hm, hl, Nat.not_lt.1 hl, eq_comm] using fun _ => this

theorem Encoded.isOk_iff {x : Encoded} : x.isOk = true ↔ ∃ a, x = .ok a := by
  cases x <;> simp [Encoded.isOk]

/-! Well-formed arrays. -/

/-- A well-formed array is its entries before the first 0, at least one, and that 0 within the capacity (R83). -/
theorem arrayWellFormed_iff {c : Config} {a : List Nat} :
    arrayWellFormed c a = true ↔ ∃ t, 1 ≤ t ∧ t ≤ c.maxTransitions - 1 ∧ a[t]? = some 0 ∧
      ∀ j < t, ∃ e, a[j]? = some e ∧ e ≠ 0 := by
  unfold arrayWellFormed
  constructor
  · intro h
    obtain ⟨-, h⟩ := Bool.and_eq_true_iff.1 h
    split at h
    next t ht =>
      obtain ⟨htl, h0, hj⟩ := List.findIdx?_eq_some_iff_getElem.1 ht
      simp only [Bool.and_eq_true, decide_eq_true_eq] at h
      refine ⟨t, h.1, h.2, by simpa [htl] using h0, fun j hjt => ?_⟩
      exact ⟨a[j]'(hjt.trans htl), List.getElem?_eq_getElem _, by simpa using hj j hjt⟩
    next => cases h
  · rintro ⟨t, h1, hm, ht, hj⟩
    have hf : a.findIdx? (· == 0) = some t := by
      obtain ⟨htl, h0⟩ := List.getElem?_eq_some_iff.1 ht
      refine List.findIdx?_eq_some_iff_getElem.2 ⟨htl, by simpa using h0, fun j hjt => ?_⟩
      obtain ⟨e, he, hne⟩ := hj j hjt
      obtain ⟨_, rfl⟩ := List.getElem?_eq_some_iff.1 he
      simpa using hne
    obtain ⟨e, he, hne⟩ := hj 0 (by omega)
    simp [hf, h1, hm, List.getD, he, hne]

/-- Invariant 4 of R44 for one array: well-formed, and every entry fits its width. -/
def ArrayOk (c : Config) (a : List Nat) : Prop := arrayWellFormed c a = true ∧ ∀ e ∈ a, e ≤ c.runMax

/-- ENCODE's arrays are well-formed and their entries fit (R83, R84). -/
theorem arrayOk_of_encodePacket {c : Config} {d : List Byte} {pre post : Nat} {a : List Nat}
    (h : encodePacket c d pre post = .ok a) : ArrayOk c a := by
  obtain ⟨hargs, hmax, hlen, rfl⟩ := encodePacket_eq_ok.1 h
  obtain ⟨hpre, hpost, -⟩ := argsOk_bounds hargs
  constructor
  · have := List.length_pos_iff.2 (packetRuns_ne_nil d pre post)
    refine arrayWellFormed_iff.2 ⟨_, this, by omega, by simp, fun j hj => ?_⟩
    exact ⟨_, List.getElem?_append_left hj ▸ List.getElem?_eq_getElem hj,
      (packetRuns_positive hpre hpost _ (List.getElem_mem hj)).ne'⟩
  · intro e he
    rcases List.mem_append.1 he with he | he
    · exact hmax e he
    · simp_all

/-- The idle array of a configuration that describes hardware (R236). -/
theorem idleArray_of_valid {c : Config} (hc : configValid c = true) :
    encodePacket c c.idleBytes c.idlePreamble.toNat c.idlePostamble.toNat = .ok (idleEncoded c).array := by
  obtain ⟨-, hi⟩ := Bool.and_eq_true_iff.1 hc
  obtain ⟨a, ha⟩ := Encoded.isOk_iff.1 hi
  rw [ha]
  exact ha

/-- A well-formed array begins with an entry that is not 0. -/
theorem ArrayOk.first {c : Config} {a : List Nat} (h : ArrayOk c a) : ∃ e, a[0]? = some e ∧ e ≠ 0 := by
  obtain ⟨t, h1, -, -, hj⟩ := arrayWellFormed_iff.1 h.1
  exact hj 0 h1

/-- Before the terminator of a well-formed array there is a next entry, within the capacity. -/
theorem ArrayOk.next {c : Config} {a : List Nat} {i e : Nat} (h : ArrayOk c a) (hi : a[i]? = some e) (he : e ≠ 0)
    (hb : ∀ j < i, a[j]? ≠ some 0) : i + 1 < c.maxTransitions ∧ ∃ e', a[i + 1]? = some e' := by
  obtain ⟨t, h1, hm, ht, hj⟩ := arrayWellFormed_iff.1 h.1
  have hit : i < t := by
    rcases Nat.lt_trichotomy i t with hlt | rfl | hgt
    · exact hlt
    · rw [ht] at hi
      exact absurd (Option.some.inj hi).symm he
    · exact absurd ht (hb t hgt)
  refine ⟨by omega, ?_⟩
  rcases Nat.lt_or_eq_of_le (Nat.succ_le_of_lt hit) with hlt | heq
  · exact (hj _ hlt).imp fun _ h => h.1
  · exact ⟨0, by rw [← Nat.succ_eq_add_one, heq, ht]⟩

/-- The bounds of R6 that the invariants lean on. -/
theorem configValid_bounds {c : Config} (hc : configValid c = true) :
    2 ≤ c.numBuffers ∧ c.numBuffers ≤ 255 ∧ 1 ≤ c.numPending ∧ c.maxCommand ≤ 255 := by
  obtain ⟨hr, -⟩ := Bool.and_eq_true_iff.1 hc
  simp only [Config.inRange, Bool.and_eq_true, decide_eq_true_eq] at hr
  omega

end Sys2Proof.Machine
end

section
/-! PROOFS. What the step of the whole block can do: it is a reset, or one instruction in a state whose agenda has moved on. -/

namespace Sys2Proof.Machine

/-- The input that is taken leaves the block's own state as it is (log 1). -/
theorem fetch_eq_run {s u : State} {i : Instr} (h : fetch s = .run i u) :
    ∃ l n, u = { s with agenda := l, schedCount := n } := by
  unfold fetch at h
  split at h
  next =>
    unfold fetchIdle at h
    split at h
    · split at h <;> cases h <;> exact ⟨s.agenda, s.schedCount + 1, rfl⟩
    · cases h; exact ⟨s.agenda, s.schedCount, rfl⟩
  next => cases h
  next l rest _ =>
    split at h <;> cases h
    exact ⟨rest, s.schedCount, rfl⟩

theorem fetch_eq_resetTo {s u : State} (h : fetch s = .resetTo u) :
    ∃ rest, s.agenda = .reset :: rest ∧ u = (s.setAgenda rest).resetEvent := by
  unfold fetch at h
  split at h
  next =>
    unfold fetchIdle at h
    split at h
    · split at h <;> cases h
    · cases h
  next rest ha => cases h; exact ⟨rest, ha, rfl⟩
  next => split at h <;> cases h

/-- What a step that answers a next state did. -/
theorem step_eq_next {s t : State} (h : step s = .next t) : configValid s.cfg = true ∧
    ((∃ rest, s.agenda = .reset :: rest ∧ t = (s.setAgenda rest).resetEvent) ∨
      ∃ i l n, exec i { s with agenda := l, schedCount := n } = .next t) := by
  have hc : configValid s.cfg = true := by
    by_contra hc
    obtain ⟨r, hr⟩ := step_refused_of_invalid (Bool.not_eq_true _ ▸ hc)
    rw [hr] at h
    cases h
  refine ⟨hc, ?_⟩
  unfold step at h
  split at h
  next i u hf =>
    obtain ⟨l, n, rfl⟩ := fetch_eq_run hf
    exact .inr ⟨i, l, n, (whenConfigured_of_valid hc _).symm.trans h⟩
  next u hf =>
    obtain ⟨rest, ha, rfl⟩ := fetch_eq_resetTo hf
    cases (whenConfigured_of_valid hc _).symm.trans h
    exact .inl ⟨rest, ha, rfl⟩
  next => cases h

/-- What holds after reset and is kept by every instruction is kept by every step of the block. -/
theorem step_keeps {P : State → Prop} (hinput : ∀ s l n, P s → P { s with agenda := l, schedCount := n })
    (hreset : ∀ s : State, configValid s.cfg = true → P s.resetEvent) (hexec : ∀ i s t, P s → exec i s = .next t → P t)
    {s t : State} (hs : P s) (h : step s = .next t) : P t := by
  obtain ⟨hc, ⟨rest, -, rfl⟩ | ⟨i, l, n, h⟩⟩ := step_eq_next h
  · exact hreset _ hc
  · exact hexec i _ t (hinput s l n hs) h

end Sys2Proof.Machine
end

section
/-! PROOFS. Reset: its values (R48, R236 to R239), and that they meet the invariants of R44 (R235). -/

namespace Sys2Proof.Machine

/-! The records after reset. -/

theorem resetWith_bufs_getElem? (c : Config) (h : Nat) :
    (State.resetWith c).bufs[h]? =
      if h < c.numBuffers then some (if h = 0 then resetFixedBuffer c else resetPoolBuffer c h) else none := by
  simp only [State.resetWith, resetBuffers, List.getElem?_map]
  split
  next hl => simp [hl]
  next hl => simp [Nat.not_lt.1 hl]

theorem resetWith_pkts_getElem? (c : Config) (p : Nat) :
    (State.resetWith c).pkts[p]? = if p < c.numPending then some (resetPacket c p) else none := by
  simp only [State.resetWith, resetPackets, List.getElem?_map]
  split
  next hl => simp [hl]
  next hl => simp [Nat.not_lt.1 hl]

/-- The buffers after reset: the fixed one, and the pool. -/
theorem resetWith_buffer {c : Config} {h : Nat} {b : Buffer} (hb : (State.resetWith c).bufs[h]? = some b) :
    h < c.numBuffers ∧ ((h = 0 ∧ b = resetFixedBuffer c) ∨ (h ≠ 0 ∧ b = resetPoolBuffer c h)) := by
  rw [resetWith_bufs_getElem?] at hb
  split at hb
  next hl =>
    refine ⟨hl, ?_⟩
    split at hb <;> cases hb
    next h0 => exact .inl ⟨h0, rfl⟩
    next h0 => exact .inr ⟨h0, rfl⟩
  next => cases hb

theorem resetWith_fixedBuffer {c : Config} (hc : configValid c = true) :
    (State.resetWith c).bufs[0]? = some (resetFixedBuffer c) := by
  obtain ⟨h2, -⟩ := configValid_bounds hc
  rw [resetWith_bufs_getElem?, if_pos (by omega), if_pos rfl]

/-- Settles O16: the reset values, read off the definitions of the reset records. -/
theorem resetValues : Obligations.ResetValues := by
  intro c hc
  have hb := resetWith_fixedBuffer hc
  refine ⟨_, idleArray_of_valid hc, by simp [State.resetWith, resetBuffers], by simp [State.resetWith, resetPackets],
    ⟨_, hb, rfl, rfl, rfl, rfl, rfl, rfl, rfl, rfl, rfl, rfl, rfl, rfl, rfl, rfl⟩, fun h h1 hn => ?_, fun p hp => ?_, rfl, ?_,
    rfl, rfl, rfl, rfl, rfl, rfl⟩
  · refine ⟨resetPoolBuffer c h, ?_, rfl, rfl, rfl, rfl, rfl, rfl, rfl, rfl, rfl, rfl⟩
    rw [resetWith_bufs_getElem?, if_pos hn, if_neg (by omega)]
  · exact ⟨resetPacket c p, by rw [resetWith_pkts_getElem?, if_pos hp], rfl⟩
  · show resetEngine c = _
    cases ha : (idleEncoded c).array <;> simp [resetEngine, halfBitTicks, ha]

/-! The lists after reset. -/

/-- Links that count up to a bound are the list of the numbers below it. -/
theorem chain_range' {f : Nat → Option Nat} {n : Nat} (k a : Nat)
    (hf : ∀ j, a ≤ j → j < n → f j = if j + 1 < n then some (j + 1) else none) (ha : a + k = n) :
    Chain f none (if a < n then some a else none) (List.range' a k) := by
  induction k generalizing a with
  | zero => exact if_neg (by omega)
  | succ k ih =>
    refine ⟨if_pos (by omega), ?_⟩
    rw [hf a le_rfl (by omega)]
    exact ih (a + 1) (fun j hj => hf j (by omega)) (by omega)

theorem resetWith_ringSound {c : Config} (hc : configValid c = true) : RingSound (State.resetWith c) := by
  have h0 := resetWith_fixedBuffer hc
  refine ⟨[], State.nextOf_of_buf h0, by simp, fun h b hb => ?_⟩
  obtain ⟨-, ⟨rfl, rfl⟩ | ⟨hne, rfl⟩⟩ := resetWith_buffer hb
  · exact ⟨by simp [resetFixedBuffer], fun _ => ⟨0, _, rfl, h0, rfl⟩, fun hl => (nomatch hl)⟩
  · exact ⟨by simp [resetPoolBuffer, hne], fun hl => (nomatch hl), fun _ => ⟨rfl, rfl⟩⟩

theorem resetWith_freeListSound {c : Config} (hc : configValid c = true) : FreeListSound (State.resetWith c) := by
  obtain ⟨h2, -⟩ := configValid_bounds hc
  have hlen : (State.resetWith c).bufs.length = c.numBuffers := by simp [State.resetWith, resetBuffers]
  refine ⟨List.range' 1 (c.numBuffers - 1), ?_, List.nodup_range', fun h hh => ?_, fun h b hb => ?_⟩
  · have := chain_range' (f := (State.resetWith c).fnextOf) (n := c.numBuffers) (c.numBuffers - 1) 1 (fun j hj hn => by
      simp [State.fnextOf, resetWith_bufs_getElem?, hn, Nat.one_le_iff_ne_zero.1 hj, resetPoolBuffer]) (by omega)
    rwa [if_pos (by omega)] at this
  · rw [hlen]
    have := List.mem_range'_1.1 hh
    omega
  · obtain ⟨hl, ⟨rfl, rfl⟩ | ⟨hne, rfl⟩⟩ := resetWith_buffer hb
    · simp [resetFixedBuffer]
    · simp only [List.mem_range'_1, resetPoolBuffer, iff_true]
      omega

theorem resetWith_pendingSound {c : Config} (hc : configValid c = true) : PendingSound (State.resetWith c) := by
  obtain ⟨-, -, h1, -⟩ := configValid_bounds hc
  have hlen : (State.resetWith c).pkts.length = c.numPending := by simp [State.resetWith, resetPackets]
  refine ⟨fun _ => none, List.range' 0 c.numPending, fun _ => [], ?_, List.nodup_range', fun p => ?_, by simp, fun h b hb => ?_⟩
  · have := chain_range' (f := (State.resetWith c).pnextOf) (n := c.numPending) c.numPending 0 (fun j _ hj => by
      simp [State.pnextOf, resetWith_pkts_getElem?, hj, resetPacket]) (by omega)
    rwa [if_pos (by omega)] at this
  · simp [List.mem_range'_1, hlen]
  · have hq : b.phead = none ∧ b.ptail = none := by
      obtain ⟨-, ⟨-, rfl⟩ | ⟨-, rfl⟩⟩ := resetWith_buffer hb <;> exact ⟨rfl, rfl⟩
    exact ⟨hq.1, List.nodup_nil, hq.2, by simp, by simp⟩

/-- The state after reset meets the invariants 1 to 6 of R44 (R235). -/
theorem resetWith_sound {c : Config} (hc : configValid c = true) : Sound (State.resetWith c) := by
  have h0 := resetWith_fixedBuffer hc
  have ha : ArrayOk c (idleEncoded c).array := arrayOk_of_encodePacket (idleArray_of_valid hc)
  obtain ⟨e, he, hne⟩ := ha.first
  exact
  { configuration := hc
    arenas := State.resetWith_wf c
    running := rfl
    noFatal := rfl
    fixedBuffer := ⟨_, h0, rfl, rfl, rfl, rfl, rfl⟩
    arrays := fun h b hb hr => by
      obtain ⟨-, ⟨rfl, rfl⟩ | ⟨-, rfl⟩⟩ := resetWith_buffer hb
      · exact ha
      · cases hr
    cursor := ⟨_, h0, rfl⟩
    engine := ⟨(by decide : (2 : Fin 3) ≠ 0), rfl, rfl, rfl⟩
    position := by
      refine ⟨_, e, h0, he, ?_, fun j hj => absurd hj (Nat.not_lt_zero j)⟩
      show (idleEncoded c).array.getD 0 0 - 1 < e
      simp only [List.getD, he, Option.getD_some]
      omega
    ring := resetWith_ringSound hc
    freeList := resetWith_freeListSound hc
    poolBuffers := fun h b hb hne => by
      obtain ⟨-, ⟨h0, -⟩ | ⟨-, rfl⟩⟩ := resetWith_buffer hb
      · exact absurd h0 hne
      · exact .inl ⟨rfl, rfl, rfl, rfl⟩
    pending := resetWith_pendingSound hc
    scan := Nat.zero_le _ }

/-- After reset no buffer is live, so that no identity has one (R48). -/
theorem resetWith_oneBufferFor (c : Config) (addr : Word) (pol : Polarity) : OneBufferFor (State.resetWith c) addr pol := by
  rintro h g b d hb hd ⟨hl, -⟩ ht
  obtain ⟨-, ⟨-, rfl⟩ | ⟨-, rfl⟩⟩ := resetWith_buffer hb <;> cases hl

/-- Settles O17: each invariant read off the reset records; the lists are the counting ones of R238. -/
theorem resetIsSound : Obligations.ResetIsSound := fun c hc =>
  ⟨resetWith_sound hc, fun addr pol => ⟨resetWith_oneBufferFor c addr pol, (resetWith_oneBufferFor c addr pol).atMostOneLive⟩⟩

end Sys2Proof.Machine
end

section
/-! PROOFS. What a step can write: each write of a buffer record and of a register the model makes, with what is known where it is
made and the register groups of R46 it belongs to; then, once per operation, that it makes such writes and no others. -/

namespace Sys2Proof.Machine

/-! One write of a buffer record, and of the state. -/

/-- The writes of buffer `h` that steps allowed to write the groups `gs` make (R46), under the configuration `c`. -/
inductive BufferWrite (c : Config) (gs : List Group) (h : Nat) : Buffer → Buffer → Prop
  /-- the link of the free list (R130) -/
  | freeLink {b : Buffer} (l : Option Nat) : .freeLists ∈ gs → BufferWrite c gs h b { b with fnext := l }
  /-- the links of a neighbour on the ring (R133, R134) -/
  | relinked {b : Buffer} (n p : Option Nat) : .links ∈ gs → BufferWrite c gs h b { b with next := n, prev := p }
  /-- the buffer is on the ring (R133) -/
  | linked {b : Buffer} : .links ∈ gs → BufferWrite c gs h b { b with linked := true }
  /-- a buffer in `LOAD` leaves the ring (R134, R182) -/
  | unlinked {b : Buffer} : b.state = .load → .links ∈ gs →
      BufferWrite c gs h b { b with next := none, prev := none, linked := false }
  /-- RELEASE_QUEUE (R132) -/
  | queueCleared {b : Buffer} : .queue ∈ gs → BufferWrite c gs h b { b with phead := none, ptail := none }
  /-- EXTEND's first record, in a pool buffer (R143) -/
  | queueStarted {b : Buffer} (p : Nat) : h ≠ 0 → .queue ∈ gs → BufferWrite c gs h b { b with phead := some p }
  /-- EXTEND's record is the queue's last (R143) -/
  | queueExtended {b : Buffer} (p : Nat) : .queue ∈ gs → BufferWrite c gs h b { b with ptail := some p }
  /-- the reply policy and its token (R28) -/
  | reply {b : Buffer} (w : ReplyPolicy) (t : Word) : .reply ∈ gs →
      BufferWrite c gs h b { b with replyWhen := w, replyToken := t }
  /-- COMPLETE and CANCEL close the buffer (R146, R149) -/
  | closed {b : Buffer} : .isOpen ∈ gs → BufferWrite c gs h b { b with isOpen := false }
  /-- ACQUIRE opens a live buffer again (R140) -/
  | reopened {b : Buffer} (action : Word) : b.state.live = true → .action ∈ gs → .isOpen ∈ gs →
      BufferWrite c gs h b { b with action := action, isOpen := true }
  /-- ACQUIRE takes an `EMPTY` buffer, which is no longer linked (R140) -/
  | taken {b : Buffer} (pol : Polarity) (addr action : Word) : b.state = .empty → .links ∈ gs ∨ b.linked = false →
      [.bufState, .identity, .action, .repeatCount, .queue, .reply, .isOpen] ⊆ gs →
      BufferWrite c gs h b
        { b with state := .load, addr := addr, pol := pol, action := action, repeatCount := 0, phead := none, ptail := none,
                 replyWhen := .never, replyToken := 0, linked := false, isOpen := true }
  /-- EXTEND's state effect (R144) -/
  | extended {b : Buffer} : .bufState ∈ gs →
      BufferWrite c gs h b { b with state := if b.state = .run then .reload else b.state }
  /-- a buffer in `LOAD` becomes `EMPTY` (R147, R149, R182) -/
  | freed {b : Buffer} : b.state = .load → .bufState ∈ gs → BufferWrite c gs h b { b with state := .empty }
  /-- LOAD_HEAD (R136) -/
  | loaded {b : Buffer} {d : List Byte} {pre post : Nat} {a : List Nat} (n : Byte) (hd tl : Option Nat) (w : ReplyPolicy) :
      b.state = .load → encodePacket c d pre post = .ok a → [.bufState, .repeatCount, .array, .queue, .reply] ⊆ gs →
      BufferWrite c gs h b { b with arr := a, repeatCount := n, phead := hd, ptail := tl, replyWhen := w, state := .run }
  /-- END_OF_ARRAY, by the Timing Engine alone (R162) -/
  | played {b : Buffer} : [.bufState, .repeatCount, .engine] ⊆ gs → BufferWrite c gs h b (afterTraversal b)

/-- Writes of one buffer record, one after another. -/
abbrev BufferWrites (c : Config) (gs : List Group) (h : Nat) : Buffer → Buffer → Prop :=
  Relation.ReflTransGen (BufferWrite c gs h)

/-- One write of the state by a step allowed to write the groups `gs` (R46). The model's own output and its count of free values
are no register group. -/
inductive Write (gs : List Group) : State → State → Prop
  | buffer {s : State} {h : Nat} {f : Buffer → Buffer} : (∀ b, s.bufs[h]? = some b → BufferWrites s.cfg gs h b (f b)) →
      Write gs s (s.updBuf h f)
  | packet {s : State} {p : Nat} {f : Packet → Packet} : .packets ∈ gs → Write gs s (s.updPkt p f)
  | freeHead {s : State} {l : Option Nat} : .freeLists ∈ gs → Write gs s (s.setFreeHead l)
  | pfreeHead {s : State} {l : Option Nat} : .freeLists ∈ gs → Write gs s (s.setPfreeHead l)
  | engine {s : State} {e : Engine} : .engine ∈ gs → Write gs s (s.setEng e)
  | latch {s : State} {v : Bool} : .latch ∈ gs → Write gs s { s with latch := v }
  | packetsSent {s : State} {n : Word} : .packetsSent ∈ gs → Write gs s (s.setPacketsSent n)
  | scanPos {s : State} {n : Byte} : .scanPos ∈ gs → Write gs s (s.setScanPos n)
  | history {s : State} {l : List Event} : .history ∈ gs → Write gs s (s.setHistory (s.history ++ l))
  | output {s : State} {r : List Byte} {n : Nat} : Write gs s { s with result := r, openCount := n }

/-- Writes of the state, one after another. -/
abbrev Writes (gs : List Group) : State → State → Prop := Relation.ReflTransGen (Write gs)

section
variable {gs : List Group} {s t : State}

/-- One write of one buffer record. -/
theorem Writes.updBuf {h : Nat} {f : Buffer → Buffer} (hf : ∀ b, s.bufs[h]? = some b → BufferWrite s.cfg gs h b (f b)) :
    Writes gs s (s.updBuf h f) := .single (.buffer fun b hb => .single (hf b hb))

/-- Two writes of one buffer record in one. -/
theorem Writes.updBuf_two {h : Nat} {f : Buffer → Buffer} (hf : ∀ b, s.bufs[h]? = some b →
    ∃ c, BufferWrite s.cfg gs h b c ∧ BufferWrite s.cfg gs h c (f b)) : Writes gs s (s.updBuf h f) :=
  .single (.buffer fun b hb => let ⟨_, h1, h2⟩ := hf b hb; .head h1 (.single h2))

theorem Writes.updPkt (hg : .packets ∈ gs) (p : Nat) (f : Packet → Packet) : Writes gs s (s.updPkt p f) :=
  .single (.packet hg)

theorem Writes.emit (hg : .history ∈ gs) (e : Event) : Writes gs s (s.emit e) := .single (.history hg)

theorem Writes.answer (st : Status) (l : List Byte) : Writes gs s (s.answer st l) := .single .output

theorem Writes.countOpen (n : Nat) : Writes gs s (s.countOpen n) := .single .output

theorem Writes.releaseIfLoad (hg : .latch ∈ gs) (st : BufState) : Writes gs s (s.releaseIfLoad st) := by
  unfold State.releaseIfLoad
  split
  · exact .single (.latch hg)
  · exact .refl

/-! The shared operations. -/

theorem State.pushFree_writes (hg : .freeLists ∈ gs) (h : Nat) : Writes gs s (s.pushFree h) :=
  (Writes.updBuf fun _ _ => .freeLink _ hg).tail (.freeHead hg)

theorem State.pushPfree_writes (hg : [.packets, .freeLists] ⊆ gs) (p : Nat) : Writes gs s (s.pushPfree p) :=
  (Writes.updPkt (hg (by simp)) p _).tail (.pfreeHead (hg (by simp)))

theorem State.popFree_writes {h : Nat} (hg : .freeLists ∈ gs) (ht : s.popFree = .ok (h, t)) : Writes gs s t := by
  obtain ⟨-, b, -, -, rfl⟩ := State.popFree_eq_ok.1 ht
  exact .head (.freeHead hg) (Writes.updBuf fun _ _ => .freeLink _ hg)

theorem State.popPfree_writes {p : Nat} (hg : [.packets, .freeLists] ⊆ gs) (ht : s.popPfree = .ok (p, t)) : Writes gs s t := by
  obtain ⟨-, k, -, rfl⟩ := State.popPfree_eq_ok.1 ht
  exact .head (.pfreeHead (hg (by simp))) (Writes.updPkt (hg (by simp)) _ _)

theorem releaseFrom_writes {n : Nat} {l : Option Nat} (hg : [.packets, .freeLists] ⊆ gs) (ht : releaseFrom n l s = .ok t) :
    Writes gs s t := by
  induction n generalizing l s with
  | zero =>
    cases l with
    | none => cases ht; exact .refl
    | some p =>
      obtain ⟨_, _, h⟩ := Attempt.bind_eq_ok.1 ht
      cases h
  | succ n ih =>
    cases l with
    | none => cases ht; exact .refl
    | some p =>
      obtain ⟨k, -, ht⟩ := releaseFrom_cons.1 ht
      exact (State.pushPfree_writes hg p).trans (ih ht)

theorem State.releaseQueue_writes {h : Nat} (hg : [.queue, .packets, .freeLists] ⊆ gs) (ht : s.releaseQueue h = .ok t) :
    Writes gs s t := by
  obtain ⟨b, u, -, hu, rfl⟩ := State.releaseQueue_eq_ok.1 ht
  exact (releaseFrom_writes (List.cons_subset.1 hg).2 hu).trans (Writes.updBuf fun _ _ => .queueCleared (hg (by simp)))

theorem State.linkAfter_writes {c h : Nat} (hg : .links ∈ gs) (ht : s.linkAfter c h = .ok t) : Writes gs s t := by
  obtain ⟨_, n, _, -, -, -, rfl⟩ := State.linkAfter_eq_ok.1 ht
  exact (((Writes.updBuf fun _ _ => .relinked _ _ hg).trans (Writes.updBuf fun _ _ => .relinked _ _ hg)).trans
    (Writes.updBuf fun _ _ => .relinked _ _ hg)).trans (Writes.updBuf fun _ _ => .linked hg)

/-- A write that leaves a field of buffer records alone. -/
theorem exists_of_updBuf {α : Type} (π : Buffer → α) {h j : Nat} {f : Buffer → Buffer} {d : Buffer}
    (hd : (s.updBuf h f).bufs[j]? = some d) (hf : ∀ b, π (f b) = π b) : ∃ b, s.bufs[j]? = some b ∧ π d = π b := by
  rw [State.updBuf_bufs, State.bufs_updBuf_getElem?] at hd
  split at hd
  · obtain ⟨b, hb, rfl⟩ := Option.map_eq_some_iff.1 hd
    exact ⟨b, hb, hf b⟩
  · exact ⟨d, hd, rfl⟩

/-- The neighbours' links, then those of the buffer that leaves the ring, which is in `LOAD`. -/
theorem State.unlink_writes {h : Nat} {b : Buffer} (hg : .links ∈ gs) (hb : s.bufs[h]? = some b) (hl : b.state = .load)
    (ht : s.unlink h = .ok t) : Writes gs s t := by
  obtain ⟨_, pv, nx, _, _, -, -, -, -, -, rfl⟩ := State.unlink_eq_ok.1 ht
  refine ((Writes.updBuf fun _ _ => .relinked _ _ hg).trans (Writes.updBuf fun _ _ => .relinked _ _ hg)).trans
    (Writes.updBuf fun d hd => .unlinked ?_ hg)
  obtain ⟨c, hc, hdc⟩ := exists_of_updBuf Buffer.state hd fun _ => rfl
  obtain ⟨b', hb', hcb⟩ := exists_of_updBuf Buffer.state hc fun _ => rfl
  cases hb.symm.trans hb'
  rw [hdc, hcb, hl]

/-- LOAD_HEAD's buffer afterwards (R136), where it was `b` and `k` is the record that was loaded, encoded as `a`. -/
def loadedBuffer (b : Buffer) (k : Packet) (a : List Nat) (c : Buffer) : Buffer :=
  { c with arr := a, repeatCount := k.dur, phead := k.next, ptail := if k.next = none then none else c.ptail,
           replyWhen := if k.next = none ∧ b.replyWhen = .atStart then .never else c.replyWhen, state := .run }

/-- LOAD_HEAD's writes (R136): the reply's event, the record, and the buffer. -/
theorem State.loaded_eq (s : State) (h p : Nat) (b : Buffer) (k : Packet) (a : List Nat) :
    s.loaded h p b k a =
      (((s.countOpen k.absent).setHistory
        (s.history ++ if k.next = none ∧ b.replyWhen = .atStart then [.reply b.replyToken] else [])).pushPfree p).updBuf h
        (loadedBuffer b k a) := by
  unfold loadedBuffer
  by_cases hr : k.next = none ∧ b.replyWhen = .atStart
  · simp only [State.loaded, if_pos hr, State.fireReply, State.emit, State.pushPfree, State.updBuf, State.countOpen,
      State.updPkt, State.setPfreeHead, State.setHistory, List.modify_modify_eq, Function.comp_def]
  · simp only [State.loaded, if_neg hr, State.pushPfree, State.updBuf, State.countOpen, State.updPkt, State.setPfreeHead,
      State.setHistory, List.modify_modify_eq, Function.comp_def, List.append_nil]

/-- What LOAD_HEAD leaves, register by register (R136). -/
theorem State.loaded_registers (s : State) (h p : Nat) (b : Buffer) (k : Packet) (a : List Nat) :
    (s.loaded h p b k a).bufs = s.bufs.modify h (loadedBuffer b k a) ∧ (s.loaded h p b k a).pkts = (s.pushPfree p).pkts ∧
    (s.loaded h p b k a).pool = { s.pool with pfreeHead := some p } ∧ (s.loaded h p b k a).eng = s.eng ∧
    (s.loaded h p b k a).cfg = s.cfg ∧ (s.loaded h p b k a).openCount = s.openCount + k.absent := by
  rw [State.loaded_eq]
  exact ⟨rfl, rfl, rfl, rfl, rfl, rfl⟩

theorem State.loadHead_writes {h : Nat} (hg : [.bufState, .repeatCount, .array, .queue, .reply, .packets, .freeLists, .history] ⊆ gs)
    (ht : s.loadHead h = .ok t) : Writes gs s t := by
  obtain ⟨b, p, k, a, hb, hl, -, -, ha, rfl⟩ := State.loadHead_eq_ok.1 ht
  rw [State.loaded_eq]
  refine (((Writes.countOpen _).tail (.history (hg (by simp)))).trans (State.pushPfree_writes (List.Subset.trans (by simp) hg) p)).trans
    (Writes.updBuf fun c hc => ?_)
  cases hb.symm.trans hc
  exact .loaded _ _ _ _ hl ha (List.Subset.trans (by simp) hg)

end

end Sys2Proof.Machine
end

section
/-! PROOFS. What the operations of the Manager Task and of the Timing Engine can answer, one lemma each (R160 to R163, R180 to R183). -/

namespace Sys2Proof.Machine

/-! The Manager Task. -/

/-- SERVICE's free path answers (R182). -/
theorem State.retire_eq_ok {s t : State} {h : Nat} :
    s.retire h = .ok t ↔ ∃ b u, s.bufs[h]? = some b ∧ s.unlink h = .ok u ∧
      t = (((u.updBuf h fun b => { b with state := .empty }).pushFree h).setHistory
        (u.history ++ if b.replyWhen = .atEnd then [.reply b.replyToken] else [])).updBuf h fun b =>
          { b with replyWhen := .never } := by
  simp only [State.retire, Attempt.bind_eq_ok, State.buf_eq_ok, Attempt.pure_eq_ok]
  have hist : ∀ (v : State) (b : Buffer), (if b.replyWhen = .atEnd then v.emit (.reply b.replyToken) else v) =
      v.setHistory (v.history ++ if b.replyWhen = .atEnd then [.reply b.replyToken] else []) := by
    intro v b
    split
    · rfl
    · rw [List.append_nil]; rfl
  constructor
  · rintro ⟨b, hb, u, hu, rfl⟩
    exact ⟨b, u, hb, hu, by rw [hist]; rfl⟩
  · rintro ⟨b, u, hb, hu, rfl⟩
    exact ⟨b, hb, u, hu, by rw [hist]; rfl⟩

/-- SERVICE answers (R182). -/
theorem State.service_eq_ok {s t : State} {h : Nat} :
    s.service h = .ok t ↔ ∃ b, s.bufs[h]? = some b ∧
      ((b.phead ≠ none ∧ s.loadHead h = .ok t) ∨ (b.phead = none ∧ s.retire h = .ok t)) := by
  simp only [State.service, Attempt.bind_eq_ok, State.buf_eq_ok]
  refine exists_congr fun b => and_congr_right fun _ => ?_
  split <;> simp_all

/-- MGR_INVOKE at one buffer answers (R180, R183). -/
theorem State.attend_eq_ok {s t : State} {h : Nat} {b : Buffer} :
    s.attend h b = .ok t ↔ (b.state = .load ∧ b.isOpen = false ∧ s.service h = .ok t) ∨
      (¬ (b.state = .load ∧ b.isOpen = false) ∧ t = s) := by
  unfold State.attend
  split <;> simp_all

/-- One buffer of MGR_INVOKE's walk (R180). -/
theorem drainFrom_cons {n h : Nat} {s t : State} (h0 : h ≠ 0) :
    drainFrom (n + 1) (some h) s = .ok t ↔ ∃ b u, s.bufs[h]? = some b ∧ b.state.live = true ∧ s.attend h b = .ok u ∧
      drainFrom n b.next u = .ok t := by
  simp only [drainFrom, Option.some.injEq, h0, if_false, Attempt.bind_eq_ok, handleOf_eq_ok, State.buf_eq_ok, expectLive_eq_ok]
  constructor
  · rintro ⟨_, rfl, b, hb, _, hl, u, hu, ht⟩
    exact ⟨b, u, hb, hl, hu, ht⟩
  · rintro ⟨b, u, hb, hl, hu, ht⟩
    exact ⟨h, rfl, b, hb, (), hl, u, hu, ht⟩

/-- MGR_INVOKE's walk stops at buffer 0 (R180). -/
theorem drainFrom_zero (n : Nat) (s : State) : drainFrom n (some 0) s = .ok s := by
  cases n <;> simp [drainFrom]

/-- MGR_INVOKE's walk does not pass a `NIL` link (R62). -/
theorem drainFrom_none (n : Nat) (s t : State) : drainFrom n none s ≠ .ok t := by
  cases n <;> simp [drainFrom, handleOf, raise, bind, Except.bind]

/-! The Timing Engine. -/

/-- END_OF_ARRAY answers (R162). -/
theorem State.endOfArray_eq_ok {s t : State} {h : Nat} :
    s.endOfArray h = .ok t ↔ ∃ b, s.bufs[h]? = some b ∧ b.state.radiable = true ∧
      t = { s.updBuf h afterTraversal with latch := s.latch || decide ((afterTraversal b).state = .load) } := by
  simp only [State.endOfArray, Attempt.bind_eq_ok, State.buf_eq_ok]
  refine exists_congr fun b => and_congr_right fun hb => ?_
  have hset : s.updBuf h afterTraversal = { s with bufs := s.bufs.set h (afterTraversal b) } := by
    rw [State.updBuf, modify_eq_set hb]
  have hself : s.bufs.set h b = s.bufs := by
    obtain ⟨hl, rfl⟩ := List.getElem?_eq_some_iff.1 hb
    exact List.set_getElem_self hl
  rw [hset]
  cases hs : b.state
  case run =>
    by_cases h0 : b.repeatCount = 0#8
    · simp [BufState.radiable, afterTraversal, hs, hself, h0]
    · by_cases h1 : b.repeatCount = 1#8
      · simp [BufState.radiable, afterTraversal, hs, h1, State.updBuf, State.release, modify_eq_set hb]
      · have h2 : ¬ b.repeatCount - 1#8 = 0#8 := by bv_omega
        simp [BufState.radiable, afterTraversal, hs, h0, h1, h2, State.updBuf, modify_eq_set hb]
  case reload => simp [BufState.radiable, afterTraversal, hs, State.updBuf, State.release, modify_eq_set hb]
  all_goals simp [BufState.radiable, afterTraversal, hs, hself]

/-- A read of an array entry answers (R161). -/
theorem State.entry_eq_ok {s t : State} {h i e : Nat} :
    s.entry h i = .ok (e, t) ↔ ∃ b, s.bufs[h]? = some b ∧ ((b.arr[i]? = some e ∧ t = s) ∨
      (b.arr[i]? = none ∧ b.arr ≠ [] ∧ e = Config.absentEntry s.openCount % 2 ^ s.cfg.runWidth ∧ t = s.countOpen 1)) := by
  simp only [State.entry, Attempt.bind_eq_ok, State.buf_eq_ok]
  refine exists_congr fun b => and_congr_right fun hb => ?_
  cases hi : b.arr[i]? with
  | some x => simp [eq_comm (a := x)]
  | none => by_cases ha : b.arr = [] <;> simp [ha]

/-- The move to the next radiable buffer answers (R161, R165). -/
theorem State.endTraversal_eq_ok {s t : State} :
    s.endTraversal = .ok t ↔ ∃ u n e v, s.endOfArray s.eng.cursor = .ok u ∧
      (u.setPacketsSent (u.packetsSent + 1)).nextRadiable u.eng.cursor = .ok n ∧
      (u.setPacketsSent (u.packetsSent + 1)).entry n 0 = .ok (e, v) ∧ e ≠ 0 ∧
      t = v.setEng { v.eng with cursor := n, idx := 0, left := e - 1, bitval := true } := by
  simp only [State.endTraversal, Attempt.bind_eq_ok, Prod.exists]
  constructor
  · rintro ⟨u, hu, n, hn, e, v, hv, ht⟩
    split at ht
    · simp at ht
    · exact ⟨u, n, e, v, hu, hn, hv, ‹_›, Attempt.pure_eq_ok.1 ht⟩
  · rintro ⟨u, n, e, v, hu, hn, hv, he, rfl⟩
    exact ⟨u, hu, n, hn, e, v, hv, by simp [he]⟩

/-- NEXT_BIT answers (R161): the entry's next bit, the next entry's first, or the next buffer's. -/
theorem State.nextBit_eq_ok {s t : State} :
    s.nextBit = .ok t ↔ (0 < s.eng.left ∧ t = s.setEng { s.eng with left := s.eng.left - 1 }) ∨
      (s.eng.left = 0 ∧ s.eng.idx + 1 < s.cfg.maxTransitions ∧ ∃ e u, s.entry s.eng.cursor (s.eng.idx + 1) = .ok (e, u) ∧
        ((e ≠ 0 ∧ t = u.setEng { u.eng with idx := s.eng.idx + 1, left := e - 1, bitval := entryBit (s.eng.idx + 1) }) ∨
          (e = 0 ∧ (u.setEng { u.eng with idx := s.eng.idx + 1 }).endTraversal = .ok t))) := by
  unfold State.nextBit
  split
  next h => simp [h, h.ne']
  next h =>
    have h0 : s.eng.left = 0 := by omega
    simp only [h0, lt_irrefl, false_and, false_or, true_and]
    split
    next hm => simp [Nat.not_lt.2 hm]
    next hm =>
      simp only [Nat.not_le.1 hm, true_and, Attempt.bind_eq_ok, Prod.exists]
      refine exists_congr fun e => exists_congr fun u => and_congr_right fun _ => ?_
      split <;> simp_all

/-- TICK after its toggle answers (R160). -/
theorem State.afterCountdown_eq_ok {s t : State} {n : Fin 3} :
    s.afterCountdown n = .ok t ↔ (n = 0 ∧ ∃ u, s.nextBit = .ok u ∧ t = u.startBit) ∨
      (n ≠ 0 ∧ t = s.setEng { s.eng with half := n }) := by
  unfold State.afterCountdown
  split
  next h => simp only [h, true_and, ne_eq, not_true, false_and, or_false, Attempt.bind_eq_ok, Attempt.pure_eq_ok]
  next h => simp [h]

/-- TICK answers (R160): the countdown reads a free value at most, and the rest follows it. -/
theorem tickBody_eq_ok {s t : State} : tickBody s = .ok t ↔ ∃ n k,
    s.toggleTrack.countdown = (n, s.toggleTrack.countOpen k) ∧ (s.toggleTrack.countOpen k).afterCountdown n = .ok t := by
  have hcd : ∀ u : State, ∃ n k, u.countdown = (n, u.countOpen k) := by
    intro u
    unfold State.countdown
    split
    · exact ⟨_, 1, rfl⟩
    · exact ⟨_, 0, rfl⟩
    · exact ⟨_, 0, rfl⟩
  obtain ⟨n, k, h⟩ := hcd s.toggleTrack
  unfold tickBody
  rw [h]
  constructor
  · exact fun ht => ⟨n, k, rfl, ht⟩
  · rintro ⟨n', k', heq, ht⟩
    rw [heq]
    exact ht

end Sys2Proof.Machine
end

section
/-! PROOFS. The footprint of every step (R46): its body makes the writes of its register groups and no others. First what follows from that. -/

namespace Sys2Proof.Machine

/-! The two state changes that depend on the state before. -/

/-- A traversal writes the state and the repeat count (R162). -/
theorem afterTraversal_eq (b : Buffer) :
    afterTraversal b = { b with state := (afterTraversal b).state, repeatCount := (afterTraversal b).repeatCount } := by
  unfold afterTraversal
  split
  · split <;> rfl
  · rfl
  · rfl

@[simp] theorem afterTraversal_arr (b : Buffer) : (afterTraversal b).arr = b.arr := by rw [afterTraversal_eq]

/-- A traversal leaves the state or ends in `LOAD` (R162). -/
theorem afterTraversal_state (b : Buffer) : (afterTraversal b).state = b.state ∨
    ((b.state = .run ∨ b.state = .reload) ∧ (afterTraversal b).state = .load) := by
  unfold afterTraversal
  split
  · split
    · exact .inl rfl
    · by_cases h : b.repeatCount = 1 <;> simp_all
  · simp_all
  · exact .inl rfl

/-- EXTEND keeps a buffer radiable, live or `EMPTY` as it is (R144). -/
@[simp] theorem extended_radiable (st : BufState) : (if st = .run then BufState.reload else st).radiable = st.radiable := by
  cases st <;> rfl

@[simp] theorem extended_live (st : BufState) : (if st = .run then BufState.reload else st).live = st.live := by
  cases st <;> rfl

@[simp] theorem extended_eq_empty (st : BufState) : (if st = .run then BufState.reload else st) = .empty ↔ st = .empty := by
  cases st <;> simp

section
variable {gs : List Group} {s t : State}

/-! What writes keep. -/

/-- What no write changes: the configuration, the halt, the model's agenda, and how many records there are. -/
theorem Writes.constants (h : Writes gs s t) : t.cfg = s.cfg ∧ t.halted = s.halted ∧ t.fatalCode = s.fatalCode ∧
    t.agenda = s.agenda ∧ t.schedCount = s.schedCount ∧ t.bufs.length = s.bufs.length ∧ t.pkts.length = s.pkts.length := by
  induction h with
  | refl => exact ⟨rfl, rfl, rfl, rfl, rfl, rfl, rfl⟩
  | tail _ hw ih => cases hw <;> simpa using ih

/-- The history is appended to only (R42). -/
theorem Writes.history_append (h : Writes gs s t) : ∃ l, t.history = s.history ++ l := by
  induction h with
  | refl => exact ⟨[], by simp⟩
  | tail _ hw ih =>
    obtain ⟨l, hl⟩ := ih
    cases hw
    case history l' _ => exact ⟨l ++ l', by simp [hl]⟩
    all_goals exact ⟨l, hl⟩

/-- A relation that each write of a buffer record respects holds between a buffer before and after. -/
theorem Writes.buffer_rel {R : Nat → Buffer → Buffer → Prop} (hrefl : ∀ h b, R h b b)
    (htrans : ∀ h a b c, R h a b → R h b c → R h a c) (hR : ∀ h a b, BufferWrite s.cfg gs h a b → R h a b) (hw : Writes gs s t)
    {h : Nat} {c : Buffer} (hc : t.bufs[h]? = some c) : ∃ b, s.bufs[h]? = some b ∧ R h b c := by
  induction hw generalizing c with
  | refl => exact ⟨c, hc, hrefl h c⟩
  | @tail u v hu huv ih =>
    have hcfg : u.cfg = s.cfg := (Writes.constants hu).1
    have hstep : ∃ d, u.bufs[h]? = some d ∧ R h d c := by
      cases huv
      case buffer j f hf =>
        rw [State.updBuf_bufs, State.bufs_updBuf_getElem?] at hc
        split at hc
        next hj =>
          subst hj
          obtain ⟨d, hd, rfl⟩ := Option.map_eq_some_iff.1 hc
          refine ⟨d, hd, ?_⟩
          have hp := hf d hd
          rw [hcfg] at hp
          generalize f d = e at hp
          induction hp with
          | refl => exact hrefl j d
          | tail _ hbw ihb => exact htrans j _ _ _ ihb (hR j _ _ hbw)
        next => exact ⟨c, hc, hrefl h c⟩
      all_goals exact ⟨c, hc, hrefl h c⟩
    obtain ⟨d, hd, hdc⟩ := hstep
    obtain ⟨b, hb, hbd⟩ := ih hd
    exact ⟨b, hb, htrans h b d c hbd hdc⟩

/-- Handle 0 stays as the fixed buffer is (R21, R22, R30). -/
theorem BufferWrite.keeps_fixed {c : Config} {h : Nat} {b d : Buffer} (hw : BufferWrite c gs h b d) (h0 : h = 0)
    (hb : b.state = .fixed ∧ b.linked = true ∧ b.isOpen = false ∧ b.phead = none) :
    (d.state = .fixed ∧ d.linked = true ∧ d.isOpen = false ∧ d.phead = none) ∧ d.arr = b.arr := by
  obtain ⟨hs, hl, ho, hp⟩ := hb
  cases hw <;> simp_all [BufState.live, afterTraversal]

theorem Writes.fixedBuffer (hw : Writes gs s t) (h : FixedBufferSound s) : FixedBufferSound t := by
  obtain ⟨b, hb, hs, hl, ho, hp, ha⟩ := h
  obtain ⟨d, hd⟩ : ∃ d, t.bufs[0]? = some d := by
    obtain ⟨-, -, -, -, -, hlen, -⟩ := hw.constants
    exact ⟨_, List.getElem?_eq_getElem (hlen ▸ lt_length_of_getElem? hb)⟩
  obtain ⟨b', hb', hr⟩ := hw.buffer_rel
    (R := fun h b d => h = 0 → (b.state = .fixed ∧ b.linked = true ∧ b.isOpen = false ∧ b.phead = none) →
      (d.state = .fixed ∧ d.linked = true ∧ d.isOpen = false ∧ d.phead = none) ∧ d.arr = b.arr)
    (fun _ _ _ hb => ⟨hb, rfl⟩) (fun _ _ _ _ h1 h2 h0 hb => ⟨(h2 h0 (h1 h0 hb).1).1, (h2 h0 (h1 h0 hb).1).2.trans (h1 h0 hb).2⟩)
    (fun _ _ _ hw h0 hb => hw.keeps_fixed h0 hb) hd
  cases hb.symm.trans hb'
  obtain ⟨⟨hs', hl', ho', hp'⟩, ha'⟩ := hr rfl ⟨hs, hl, ho, hp⟩
  exact ⟨d, hd, hs', hl', ho', hp', by rw [ha', ha, hw.constants.1]⟩

/-- A radiable buffer's array is one that ENCODE made or the one it had (R44, R73). -/
theorem BufferWrite.keeps_array {c : Config} {h : Nat} {b d : Buffer} (hw : BufferWrite c gs h b d)
    (hb : b.state.radiable = true → ArrayOk c b.arr) (hd : d.state.radiable = true) : ArrayOk c d.arr := by
  cases hw
  case loaded ha _ => exact arrayOk_of_encodePacket ha
  case played =>
    rw [afterTraversal_arr]
    rcases afterTraversal_state b with h | ⟨-, h⟩
    · exact hb (h ▸ hd)
    · rw [h] at hd; cases hd
  case extended => exact hb (by simpa using hd)
  case taken => cases hd
  case freed => cases hd
  all_goals exact hb hd

theorem Writes.arrays (hw : Writes gs s t) (h : ArraysSound s) : ArraysSound t := by
  intro j d hd hr
  obtain ⟨b, hb, hbd⟩ := hw.buffer_rel
    (R := fun _ b d => (b.state.radiable = true → ArrayOk s.cfg b.arr) → d.state.radiable = true → ArrayOk s.cfg d.arr)
    (fun _ _ => id) (fun _ _ _ _ h1 h2 hb => h2 (h1 hb)) (fun _ _ _ hw hb hd => hw.keeps_array hb hd) hd
  rw [hw.constants.1]
  exact hbd (h j b hb) hr

/-- What a step that does not write the engine leaves of a radiable buffer (R45, R73). -/
theorem BufferWrite.keeps_radiable {c : Config} {h : Nat} {b d : Buffer} (hw : BufferWrite c gs h b d) (hg : .engine ∉ gs)
    (hb : b.state.radiable = true) : d.state.radiable = true ∧ d.arr = b.arr := by
  cases hw
  case played hg' => exact absurd (hg' (by simp)) hg
  case extended => simpa using hb
  case taken hs _ _ => rw [hs] at hb; cases hb
  case freed hs _ => rw [hs] at hb; cases hb
  case loaded hs _ _ => rw [hs] at hb; cases hb
  all_goals exact ⟨hb, rfl⟩

/-- A buffer that may be played stays as it is while the engine is not written. -/
theorem Writes.radiable (hw : Writes gs s t) (hg : .engine ∉ gs) {h : Nat} {b : Buffer} (hb : s.bufs[h]? = some b)
    (hr : b.state.radiable = true) : ∃ d, t.bufs[h]? = some d ∧ d.state.radiable = true ∧ d.arr = b.arr := by
  obtain ⟨-, -, -, -, -, hlen, -⟩ := hw.constants
  obtain ⟨d, hd⟩ : ∃ d, t.bufs[h]? = some d := ⟨_, List.getElem?_eq_getElem (hlen ▸ lt_length_of_getElem? hb)⟩
  obtain ⟨b', hb', hbd⟩ := hw.buffer_rel
    (R := fun _ b d => b.state.radiable = true → d.state.radiable = true ∧ d.arr = b.arr)
    (fun _ _ hb => ⟨hb, rfl⟩) (fun _ _ _ _ h1 h2 hb => ⟨(h2 (h1 hb).1).1, (h2 (h1 hb).1).2.trans (h1 hb).2⟩)
    (fun _ _ _ hw hb => hw.keeps_radiable hg hb) hd
  cases hb.symm.trans hb'
  exact ⟨d, hd, hbd hr⟩

/-- A step that does not write identities gives no identity a buffer it did not have (R141). -/
theorem BufferWrite.targets {c : Config} {h : Nat} {b d : Buffer} (hw : BufferWrite c gs h b d) (hg : .identity ∉ gs)
    {addr : Word} {pol : Polarity} (hd : Targets d addr pol) : Targets b addr pol := by
  obtain ⟨hl, ha, hp⟩ := hd
  cases hw
  case taken hg' => exact absurd (hg' (by simp)) hg
  case extended => exact ⟨by simpa using hl, ha, hp⟩
  case freed => cases hl
  case loaded hs _ _ => exact ⟨by rw [hs]; rfl, ha, hp⟩
  case played =>
    rw [afterTraversal_eq] at ha hp
    refine ⟨?_, ha, hp⟩
    rcases afterTraversal_state b with h | ⟨h | h, -⟩
    · exact h ▸ hl
    · rw [h]; rfl
    · rw [h]; rfl
  all_goals exact ⟨hl, ha, hp⟩

theorem Writes.targets (hw : Writes gs s t) (hg : .identity ∉ gs) {addr : Word} {pol : Polarity} {h : Nat} {d : Buffer}
    (hd : t.bufs[h]? = some d) (ht : Targets d addr pol) : ∃ b, s.bufs[h]? = some b ∧ Targets b addr pol := by
  obtain ⟨b, hb, hbd⟩ := hw.buffer_rel (R := fun _ b d => Targets d addr pol → Targets b addr pol)
    (fun _ _ => id) (fun _ _ _ _ h1 h2 h => h1 (h2 h)) (fun _ _ _ hw h => hw.targets hg h) hd
  exact ⟨b, hb, hbd ht⟩

theorem Writes.oneBufferFor (hw : Writes gs s t) (hg : .identity ∉ gs) {addr : Word} {pol : Polarity}
    (h : OneBufferFor s addr pol) : OneBufferFor t addr pol := by
  intro i j b c hb hc tb tc
  obtain ⟨b', hb', tb'⟩ := hw.targets hg hb tb
  obtain ⟨c', hc', tc'⟩ := hw.targets hg hc tc
  exact h i j b' c' hb' hc' tb' tc'

/-! The register groups. -/

/-- Two buffer records agree on the fields of a register group. -/
def Group.sameIn (b d : Buffer) : Group → Prop
  | .bufState => b.state = d.state
  | .identity => b.addr = d.addr ∧ b.pol = d.pol
  | .action => b.action = d.action
  | .repeatCount => b.repeatCount = d.repeatCount
  | .array => b.arr = d.arr
  | .queue => b.phead = d.phead ∧ b.ptail = d.ptail
  | .reply => b.replyWhen = d.replyWhen ∧ b.replyToken = d.replyToken
  | .links => b.next = d.next ∧ b.prev = d.prev ∧ b.linked = d.linked
  | .isOpen => b.isOpen = d.isOpen
  | .freeLists => b.fnext = d.fnext
  | _ => True

theorem Group.sameIn_refl (g : Group) (b : Buffer) : g.sameIn b b := by cases g <;> simp [Group.sameIn]

theorem Group.sameIn_trans {g : Group} {a b d : Buffer} (h1 : g.sameIn a b) (h2 : g.sameIn b d) : g.sameIn a d := by
  cases g <;> simp_all [Group.sameIn]

/-- A write of a buffer record writes fields of its groups only (R46). -/
theorem BufferWrite.sameIn {c : Config} {h : Nat} {b d : Buffer} (hw : BufferWrite c gs h b d) {g : Group} (hg : g ∉ gs) :
    g.sameIn b d := by
  cases hw
  case taken hl hgs => cases g <;> simp_all [Group.sameIn]
  case played hgs => rw [afterTraversal_eq]; cases g <;> simp_all [Group.sameIn]
  all_goals cases g <;> simp_all [Group.sameIn]

/-- The registers outside the buffer records that a step does not write. -/
theorem Writes.registers (hw : Writes gs s t) :
    (.packets ∉ gs → s.pkts = t.pkts) ∧ (.freeLists ∉ gs → s.pool = t.pool) ∧ (.engine ∉ gs → s.eng = t.eng) ∧
    (.latch ∉ gs → s.latch = t.latch) ∧ (.packetsSent ∉ gs → s.packetsSent = t.packetsSent) ∧
    (.scanPos ∉ gs → s.scanPos = t.scanPos) ∧ (.history ∉ gs → s.history = t.history) := by
  induction hw with
  | refl => simp
  | tail _ hw ih => cases hw <;> simp_all

/-- A field that every buffer has before and after is the same field of the arena. -/
theorem map_bufs_eq {α : Type} {π : Buffer → α} (hlen : t.bufs.length = s.bufs.length)
    (h : ∀ (j : Nat) (d : Buffer), t.bufs[j]? = some d → ∃ b, s.bufs[j]? = some b ∧ π b = π d) : s.bufs.map π = t.bufs.map π := by
  refine List.ext_getElem? fun j => ?_
  rw [List.getElem?_map, List.getElem?_map]
  cases hd : t.bufs[j]? with
  | none => rw [List.getElem?_eq_none (hlen ▸ List.getElem?_eq_none_iff.1 hd)]
  | some d =>
    obtain ⟨b, hb, hbd⟩ := h j d hd
    simp [hb, hbd]

/-- A group that is not written is the same after (R46). -/
theorem Writes.same (hw : Writes gs s t) {g : Group} (hg : g ∉ gs) : g.same s t := by
  have hbuf : ∀ (j : Nat) (d : Buffer), t.bufs[j]? = some d → ∃ b, s.bufs[j]? = some b ∧ g.sameIn b d := fun _ _ =>
    hw.buffer_rel (R := fun _ b d => g.sameIn b d) (fun _ => g.sameIn_refl) (fun _ _ _ _ => g.sameIn_trans)
      fun _ _ _ hbw => hbw.sameIn hg
  obtain ⟨-, -, -, -, -, hlen, -⟩ := hw.constants
  obtain ⟨hpkts, hpool, heng, hlatch, hsent, hscan, hhist⟩ := hw.registers
  have hfield : ∀ {α : Type} {π : Buffer → α}, (∀ b d, g.sameIn b d → π b = π d) → s.bufs.map π = t.bufs.map π :=
    fun hπ => map_bufs_eq hlen fun j d hd => (hbuf j d hd).imp fun b hb => ⟨hb.1, hπ b d hb.2⟩
  cases g with
  | bufState => exact hfield fun _ _ h => h
  | identity => exact hfield fun _ _ h => Prod.ext h.1 h.2
  | action => exact hfield fun _ _ h => h
  | repeatCount => exact hfield fun _ _ h => h
  | array => exact hfield fun _ _ h => h
  | queue => exact hfield fun _ _ h => Prod.ext h.1 h.2
  | reply => exact hfield fun _ _ h => Prod.ext h.1 h.2
  | links => exact hfield fun _ _ h => Prod.ext h.1 (Prod.ext h.2.1 h.2.2)
  | isOpen => exact hfield fun _ _ h => h
  | freeLists => exact ⟨hfield fun _ _ h => h, hpool hg⟩
  | packets => exact hpkts hg
  | engine => exact heng hg
  | latch => exact hlatch hg
  | packetsSent => exact hsent hg
  | scanPos => exact hscan hg
  | history => exact hhist hg

end

end Sys2Proof.Machine
end

section
/-! PROOFS. The footprint of every step (R46): its body makes writes of its own register groups and no others. -/

namespace Sys2Proof.Machine

section
variable {gs : List Group} {s t : State}

/-! The pool commands. -/

/-- A host handle the block accepts names an open pool buffer (R62). -/
theorem State.acceptsHandle_iff {h : Nat} : s.acceptsHandle h = true ↔ ∃ b, Accepts s h b := by
  unfold State.acceptsHandle Accepts
  cases s.bufs[h]? <;> simp [and_assoc]

/-- One buffer of FIND_LIVE's walk (R141). -/
theorem State.findLiveIn_cons {addr : Word} {pol : Polarity} {h : Nat} {rest : List Nat} {r : Option Nat} :
    s.findLiveIn addr pol (h :: rest) = .ok r ↔ ∃ b, s.bufs[h]? = some b ∧ b.state.live = true ∧
      ((sameTarget b addr pol = true ∧ r = some h) ∨ (sameTarget b addr pol = false ∧ s.findLiveIn addr pol rest = .ok r)) := by
  simp only [State.findLiveIn, Attempt.bind_eq_ok, State.buf_eq_ok, expectLive_eq_ok]
  refine exists_congr fun b => and_congr_right fun _ => ?_
  cases sameTarget b addr pol <;> simp

/-- FIND_LIVE finds a live buffer of the identity (R141). -/
theorem State.findLiveIn_some {addr : Word} {pol : Polarity} {l : List Nat} {h : Nat}
    (hf : s.findLiveIn addr pol l = .ok (some h)) : h ∈ l ∧ ∃ b, s.bufs[h]? = some b ∧ b.state.live = true := by
  induction l with
  | nil => cases hf
  | cons j rest ih =>
    obtain ⟨b, hb, hl, ⟨-, hj⟩ | ⟨-, hf⟩⟩ := State.findLiveIn_cons.1 hf
    · cases hj; exact ⟨by simp, b, hb, hl⟩
    · exact ⟨by simp [(ih hf).1], (ih hf).2⟩

theorem State.findLive_eq_ok {addr : Word} {pol : Polarity} {r : Option Nat} :
    s.findLive addr pol = .ok r ↔ ∃ ring, s.ringOrder = .ok ring ∧ s.findLiveIn addr pol ring = .ok r := by
  simp only [State.findLive, Attempt.bind_eq_ok]

theorem State.reuse_writes {h : Nat} {b : Buffer} {action : Word} {r : Reply}
    (hg : [.queue, .packets, .freeLists, .reply, .action, .isOpen] ⊆ gs) (hb : s.bufs[h]? = some b)
    (hl : b.state.live = true) (hr : s.reuse h action = .ok r) : Writes gs s r.state := by
  obtain ⟨u, hu, rfl⟩ := State.reuse_eq_ok.1 hr
  refine (State.releaseQueue_writes (List.Subset.trans (by simp) hg) hu).trans (Writes.updBuf_two fun c hc => ?_)
  have hlive : c.state.live = true := by
    obtain ⟨b', v, hb', hv, rfl⟩ := State.releaseQueue_eq_ok.1 hu
    obtain ⟨d, hd, hcd⟩ := exists_of_updBuf Buffer.state hc fun _ => rfl
    rw [(releaseFrom_frame hv).1] at hd
    cases hb.symm.trans hd
    rw [hcd, hl]
  exact ⟨_, .reopened action hlive (hg (by simp)) (hg (by simp)), .reply .never _ (hg (by simp))⟩

/-- In an `EMPTY` buffer `linked` is clear (R44). -/
def EmptyUnlinked (s : State) : Prop := ∀ (h : Nat) (b : Buffer), s.bufs[h]? = some b → b.state = .empty → b.linked = false

theorem State.allocate_writes {pol : Polarity} {addr action : Word} {r : Reply} (hl : .links ∈ gs ∨ EmptyUnlinked s)
    (hg : [.bufState, .identity, .action, .repeatCount, .queue, .reply, .isOpen, .freeLists, .history] ⊆ gs)
    (hr : s.allocate pol addr action = .ok r) : Writes gs s r.state := by
  obtain ⟨-, rfl⟩ | ⟨h, u, hu, rfl⟩ := State.allocate_eq_ok.1 hr
  · exact Writes.emit (hg (by simp)) _
  · refine (State.popFree_writes (hg (by simp)) hu).trans (Writes.updBuf fun c hc => ?_)
    obtain ⟨-, b, hb, he, rfl⟩ := State.popFree_eq_ok.1 hu
    obtain ⟨b', hb', hcb⟩ := exists_of_updBuf (fun b => (b.state, b.linked)) hc fun _ => rfl
    cases hb.symm.trans hb'
    obtain ⟨hst, hln⟩ := Prod.ext_iff.1 hcb
    exact .taken pol addr action (hst.trans he) (hl.imp_right fun h0 => hln.trans (h0 h b hb he))
      (List.Subset.trans (by simp) hg)

theorem State.acquire_writes {pol : Polarity} {addr action : Word} {ow : Bool} {r : Reply}
    (hl : .links ∈ gs ∨ EmptyUnlinked s)
    (hg : [.bufState, .identity, .action, .repeatCount, .queue, .reply, .isOpen, .freeLists, .packets, .history] ⊆ gs)
    (hr : s.acquire pol addr action ow = .ok r) : Writes gs s r.state := by
  obtain ⟨-, rfl⟩ | ⟨-, -, h, hf, hr⟩ | ⟨-, -, hr⟩ := State.acquire_eq_ok.1 hr
  · exact .refl
  · obtain ⟨ring, -, hf⟩ := State.findLive_eq_ok.1 hf
    obtain ⟨-, b, hb, hlive⟩ := State.findLiveIn_some hf
    exact State.reuse_writes (List.Subset.trans (by simp) hg) hb hlive hr
  · exact State.allocate_writes hl (List.Subset.trans (by simp) hg) hr

theorem State.enqueue_writes {h p : Nat} (h0 : h ≠ 0) (hg : [.queue, .packets] ⊆ gs) (ht : s.enqueue h p = .ok t) :
    Writes gs s t := by
  obtain ⟨b, -, ⟨-, rfl⟩ | ⟨-, q, k, -, -, rfl⟩⟩ := State.enqueue_eq_ok.1 ht
  · exact (Writes.updBuf fun _ _ => .queueStarted p h0 (hg (by simp))).trans
      (Writes.updBuf fun _ _ => .queueExtended p (hg (by simp)))
  · exact (Writes.updPkt (hg (by simp)) _ _).trans (Writes.updBuf fun _ _ => .queueExtended p (hg (by simp)))

theorem State.extend_writes {h : Nat} {a : ExtendArgs} {r : Reply}
    (hg : [.bufState, .queue, .reply, .freeLists, .packets, .history] ⊆ gs) (hr : s.extend h a = .ok r) :
    Writes gs s r.state := by
  obtain ⟨-, rfl⟩ | ⟨-, -, rfl⟩ | ⟨-, -, rfl⟩ | ⟨-, -, -, rfl⟩ | ⟨hacc, -, p, u, v, b, hp, hv, hb, -, rfl⟩ := State.extend_eq_ok.1 hr
  · exact .refl
  · exact .refl
  · exact Writes.emit (hg (by simp)) _
  · exact Writes.emit (hg (by simp)) _
  · obtain ⟨_, h1, -⟩ := State.acceptsHandle_iff.1 hacc
    have h0 : h ≠ 0 := by omega
    refine (((State.popPfree_writes (List.Subset.trans (by simp) hg) hp).trans (Writes.updPkt (hg (by simp)) _ _)).trans
      (State.enqueue_writes h0 (List.Subset.trans (by simp) hg) hv)).trans (Writes.updBuf_two fun c hc => ?_)
    cases hb.symm.trans hc
    exact ⟨_, .extended (hg (by simp)), .reply a.rw a.token (hg (by simp))⟩

theorem State.completeNew_writes {h : Nat} {r : Reply}
    (hg : [.bufState, .repeatCount, .array, .queue, .reply, .links, .isOpen, .freeLists, .packets, .history] ⊆ gs)
    (hr : s.completeNew h = .ok r) : Writes gs s r.state := by
  obtain ⟨b, hb, hl, ⟨-, rfl⟩ | ⟨-, u, v, hu, hv, rfl⟩⟩ := State.completeNew_eq_ok.1 hr
  · refine Relation.ReflTransGen.trans (Writes.updBuf_two fun c hc => ?_) (State.pushFree_writes (hg (by simp)) h)
    cases hb.symm.trans hc
    exact ⟨_, .freed hl (hg (by simp)), .closed (hg (by simp))⟩
  · exact ((State.loadHead_writes (List.Subset.trans (by simp) hg) hu).trans
      (State.linkAfter_writes (hg (by simp)) hv)).trans (Writes.updBuf fun _ _ => .closed (hg (by simp)))

theorem State.complete_writes {h : Nat} {r : Reply}
    (hg : [.bufState, .repeatCount, .array, .queue, .reply, .links, .isOpen, .freeLists, .packets, .latch, .history] ⊆ gs)
    (hr : s.complete h = .ok r) : Writes gs s r.state := by
  obtain ⟨-, rfl⟩ | ⟨-, b, -, ⟨-, hr⟩ | ⟨-, hr⟩⟩ := State.complete_eq_ok.1 hr
  · exact .refl
  · obtain ⟨c, -, -, rfl⟩ := State.completeReused_eq_ok.1 hr
    exact (Writes.updBuf fun _ _ => .closed (hg (by simp))).trans (Writes.releaseIfLoad (hg (by simp)) _)
  · exact State.completeNew_writes (List.Subset.trans (by simp) hg) hr

theorem State.cancel_writes {h : Nat} {r : Reply}
    (hg : [.bufState, .queue, .reply, .isOpen, .freeLists, .packets, .latch] ⊆ gs) (hr : s.cancel h = .ok r) :
    Writes gs s r.state := by
  obtain ⟨-, rfl⟩ | ⟨-, u, b, hu, hb, hend⟩ := State.cancel_eq_ok.1 hr
  · exact .refl
  have hclose : Writes gs s (u.updBuf h fun b => { b with replyWhen := .never, isOpen := false }) :=
    (State.releaseQueue_writes (List.Subset.trans (by simp) hg) hu).trans
      (Writes.updBuf_two fun _ _ => ⟨_, .closed (hg (by simp)), .reply .never _ (hg (by simp))⟩)
  obtain ⟨-, -, rfl⟩ | ⟨-, hl, rfl⟩ := hend
  · exact hclose.trans (Writes.releaseIfLoad (hg (by simp)) _)
  · refine (hclose.trans (Writes.updBuf fun c hc => ?_)).trans (State.pushFree_writes (hg (by simp)) h)
    cases hb.symm.trans hc
    exact .freed hl (hg (by simp))

theorem State.submit_writes {a : SubmitArgs} {r : Reply} (hg : writes (.submit (.ok a)) ⊆ gs) (hr : s.submit a = .ok r) :
    Writes gs s r.state := by
  have hlinks : .links ∈ gs := hg (by simp [writes])
  have hhist : .history ∈ gs := hg (by simp [writes])
  obtain ⟨-, rfl⟩ | ⟨-, -, rfl⟩ | ⟨-, -, rfl⟩ | ⟨-, -, q, hq, hend⟩ := State.submit_eq_ok.1 hr
  · exact .refl
  · exact .refl
  · exact Writes.emit hhist _
  have hacq : Writes gs s q.state := State.acquire_writes (.inl hlinks) (List.Subset.trans (by simp [writes]) hg) hq
  obtain ⟨-, rfl⟩ | ⟨h, -, hinto⟩ := hend
  · exact hacq
  obtain ⟨x, hx, hend⟩ := State.submitInto_eq_ok.1 hinto
  have hext : Writes gs s x.state := hacq.trans (State.extend_writes (List.Subset.trans (by simp [writes]) hg) hx)
  obtain ⟨-, rfl⟩ | ⟨-, c, hc, rfl⟩ := hend
  · obtain ⟨l, hl⟩ := hext.history_append
    rw [hl]
    exact .single (.history hhist)
  · have hcomp : Writes gs x.state c.state := State.complete_writes (List.Subset.trans (by simp [writes]) hg) hc
    exact hext.trans hcomp

/-! The Manager Task. -/

/-- UNLINK writes no field of a buffer but its links. -/
theorem exists_of_unlink {α : Type} (π : Buffer → α) {h j : Nat} {d : Buffer} (hu : s.unlink h = .ok t)
    (hd : t.bufs[j]? = some d) (hπ : ∀ (b : Buffer) n p l, π { b with next := n, prev := p, linked := l } = π b) :
    ∃ b, s.bufs[j]? = some b ∧ π d = π b := by
  obtain ⟨_, pv, nx, _, _, -, -, -, -, -, rfl⟩ := State.unlink_eq_ok.1 hu
  obtain ⟨x, hx, hdx⟩ := exists_of_updBuf π hd fun b => hπ b none none false
  obtain ⟨y, hy, hxy⟩ := exists_of_updBuf π hx fun b => hπ b b.next (some pv) b.linked
  obtain ⟨b, hb, hyb⟩ := exists_of_updBuf π hy fun b => hπ b (some nx) b.prev b.linked
  exact ⟨b, hb, (hdx.trans hxy).trans hyb⟩

theorem State.retire_writes {h : Nat} {b : Buffer} (hg : [.bufState, .reply, .links, .freeLists, .history] ⊆ gs)
    (hb : s.bufs[h]? = some b) (hl : b.state = .load) (ht : s.retire h = .ok t) : Writes gs s t := by
  obtain ⟨c, u, -, hu, rfl⟩ := State.retire_eq_ok.1 ht
  have hfreed : Writes gs u (u.updBuf h fun b => { b with state := .empty }) := Writes.updBuf fun d hd => by
    obtain ⟨b', hb', hdb⟩ := exists_of_unlink Buffer.state hu hd fun _ _ _ _ => rfl
    cases hb.symm.trans hb'
    exact .freed (hdb.trans hl) (hg (by simp))
  exact ((((State.unlink_writes (hg (by simp)) hb hl hu).trans hfreed).trans (State.pushFree_writes (hg (by simp)) h)).tail
    (.history (hg (by simp)))).trans (Writes.updBuf fun _ _ => .reply .never _ (hg (by simp)))

theorem State.attend_writes {h : Nat} {b : Buffer}
    (hg : [.bufState, .repeatCount, .array, .queue, .reply, .links, .freeLists, .packets, .history] ⊆ gs)
    (hb : s.bufs[h]? = some b) (ht : s.attend h b = .ok t) : Writes gs s t := by
  obtain ⟨hl, -, ht⟩ | ⟨-, rfl⟩ := State.attend_eq_ok.1 ht
  · obtain ⟨-, -, ⟨-, ht⟩ | ⟨-, ht⟩⟩ := State.service_eq_ok.1 ht
    · exact State.loadHead_writes (List.Subset.trans (by simp) hg) ht
    · exact State.retire_writes (List.Subset.trans (by simp) hg) hb hl ht
  · exact .refl

theorem drainFrom_writes {n : Nat} {l : Option Nat}
    (hg : [.bufState, .repeatCount, .array, .queue, .reply, .links, .freeLists, .packets, .history] ⊆ gs)
    (ht : drainFrom n l s = .ok t) : Writes gs s t := by
  induction n generalizing l s with
  | zero =>
    unfold drainFrom at ht
    split at ht
    · cases ht; exact .refl
    · cases ht
  | succ n ih =>
    match l with
    | none => exact absurd ht (drainFrom_none _ _ _)
    | some 0 => rw [drainFrom_zero] at ht; cases ht; exact .refl
    | some (h + 1) =>
      obtain ⟨b, u, hb, -, hu, ht⟩ := (drainFrom_cons (Nat.succ_ne_zero h)).1 ht
      exact (State.attend_writes hg hb hu).trans (ih ht)

/-! The Timing Engine. -/

theorem State.entry_writes {h i e : Nat} (ht : s.entry h i = .ok (e, t)) : Writes gs s t := by
  obtain ⟨_, -, ⟨-, rfl⟩ | ⟨-, -, -, rfl⟩⟩ := State.entry_eq_ok.1 ht
  · exact .refl
  · exact Writes.countOpen 1

theorem State.endTraversal_writes (hg : writes .tick ⊆ gs) (ht : s.endTraversal = .ok t) : Writes gs s t := by
  obtain ⟨u, n, e, v, hu, -, hv, -, rfl⟩ := State.endTraversal_eq_ok.1 ht
  obtain ⟨b, -, -, rfl⟩ := State.endOfArray_eq_ok.1 hu
  have hplayed : Writes gs s (s.updBuf s.eng.cursor afterTraversal) :=
    Writes.updBuf fun _ _ => .played (List.Subset.trans (by simp [writes]) hg)
  exact (((hplayed.tail (.latch (hg (by simp [writes])))).tail (.packetsSent (hg (by simp [writes])))).trans
    (State.entry_writes hv)).tail (.engine (hg (by simp [writes])))

theorem State.nextBit_writes (hg : writes .tick ⊆ gs) (ht : s.nextBit = .ok t) : Writes gs s t := by
  have heng : .engine ∈ gs := hg (by simp [writes])
  obtain ⟨-, rfl⟩ | ⟨-, -, e, u, hu, ⟨-, rfl⟩ | ⟨-, ht⟩⟩ := State.nextBit_eq_ok.1 ht
  · exact .single (.engine heng)
  · exact (State.entry_writes hu).tail (.engine heng)
  · exact ((State.entry_writes hu).tail (.engine heng)).trans (State.endTraversal_writes hg ht)

theorem tickBody_writes (hg : writes .tick ⊆ gs) (ht : tickBody s = .ok t) : Writes gs s t := by
  have heng : .engine ∈ gs := hg (by simp [writes])
  obtain ⟨n, k, -, ht⟩ := tickBody_eq_ok.1 ht
  have hcount : Writes gs s (s.toggleTrack.countOpen k) := .head (.engine heng) (Writes.countOpen k)
  obtain ⟨-, u, hu, rfl⟩ | ⟨-, rfl⟩ := State.afterCountdown_eq_ok.1 ht
  · exact (hcount.trans (State.nextBit_writes hg hu)).tail (.engine heng)
  · exact hcount.tail (.engine heng)

/-! Every step. -/

/-- The body of a step writes the groups R46 gives it. ACQUIRE clears `linked`, which is clear already in an `EMPTY` buffer. -/
theorem bodyOf_writes {i : Instr} (hl : .links ∈ gs ∨ EmptyUnlinked s) (hg : writes i ⊆ gs) (ht : bodyOf i s = .ok t) :
    Writes gs s t := by
  cases i with
  | acquire a =>
    cases a with
    | malformed _ => cases ht; exact Writes.answer _ _
    | ok a =>
      obtain ⟨r, hr, ht⟩ := Attempt.bind_eq_ok.1 ht
      cases ht
      exact (State.acquire_writes hl hg hr).trans (Writes.answer _ _)
  | extend a =>
    cases a with
    | malformed _ => cases ht; exact Writes.answer _ _
    | ok a =>
      obtain ⟨r, hr, ht⟩ := Attempt.bind_eq_ok.1 ht
      cases ht
      exact (State.extend_writes hg hr).trans (Writes.answer _ _)
  | complete a =>
    cases a with
    | malformed _ => cases ht; exact Writes.answer _ _
    | ok h =>
      obtain ⟨r, hr, ht⟩ := Attempt.bind_eq_ok.1 ht
      cases ht
      exact (State.complete_writes hg hr).trans (Writes.answer _ _)
  | cancel a =>
    cases a with
    | malformed _ => cases ht; exact Writes.answer _ _
    | ok h =>
      obtain ⟨r, hr, ht⟩ := Attempt.bind_eq_ok.1 ht
      cases ht
      exact (State.cancel_writes hg hr).trans (Writes.answer _ _)
  | submit a =>
    cases a with
    | malformed _ => cases ht; exact Writes.answer _ _
    | ok a =>
      obtain ⟨r, hr, ht⟩ := Attempt.bind_eq_ok.1 ht
      cases ht
      exact (State.submit_writes hg hr).trans (Writes.answer _ _)
  | freeBuffers a =>
    cases a with
    | malformed _ => cases ht; exact Writes.answer _ _
    | ok _ =>
      obtain ⟨c, -, ht⟩ := Attempt.bind_eq_ok.1 ht
      cases ht
      exact Writes.answer _ _
  | packetsSent a => cases a <;> cases ht <;> exact Writes.answer _ _
  | resetScan a =>
    cases a with
    | malformed _ => cases ht; exact Writes.answer _ _
    | ok _ => cases ht; exact .head (.scanPos (hg (by simp [writes]))) (Writes.answer _ _)
  | scanNext a =>
    cases a with
    | malformed _ => cases ht; exact Writes.answer _ _
    | ok _ =>
      obtain ⟨ring, -, ht⟩ := Attempt.bind_eq_ok.1 ht
      obtain ⟨live, -, ht⟩ := Attempt.bind_eq_ok.1 ht
      split at ht
      · cases ht; exact Writes.answer _ _
      · obtain ⟨b, -, ht⟩ := Attempt.bind_eq_ok.1 ht
        cases ht
        exact .head (.scanPos (hg (by simp [writes]))) (Writes.answer _ _)
  | tick => exact tickBody_writes hg ht
  | mgrInvoke =>
    obtain ⟨b, -, ht⟩ := Attempt.bind_eq_ok.1 ht
    exact .head (.latch (hg (by simp [writes]))) (drainFrom_writes (List.Subset.trans (by simp [writes]) hg) ht)
  | badOpcode _ => cases ht; exact Writes.answer _ _

end

end Sys2Proof.Machine
end

section
/-! PROOFS. What every step keeps, in corrupted states too: read off the step's footprint, and for TICK off its engine registers. -/

namespace Sys2Proof.Machine

variable {s t : State}

/-- What an instruction that answers a next state did: writes of its groups after the old result is gone, or the entry of a fatal
fault. -/
theorem exec_writes {gs : List Group} {i : Instr} (hl : .links ∈ gs ∨ EmptyUnlinked s) (hg : writes i ⊆ gs)
    (h : exec i s = .next t) : Writes gs s t ∨ ∃ c, t = s.clearResult.fatalEntry c := by
  obtain ⟨-, -, hb | ⟨c, -, rfl⟩⟩ := exec_eq_next h
  · exact .inl (.head (.output (r := []) (n := s.openCount)) (bodyOf_writes (s := s.clearResult) hl hg hb))
  · exact .inr ⟨c, rfl⟩

/-- Settles O26: every write of the history appends, and so does the entry of a fatal fault. -/
theorem historyOnlyGrows : Obligations.HistoryOnlyGrows := by
  intro i s t h
  obtain hw | ⟨c, rfl⟩ := exec_writes (gs := .links :: writes i) (.inl (by simp)) (by simp) h
  · exact hw.history_append
  · exact ⟨[.fatal c], rfl⟩

/-- A property that writes keep and that a fatal fault's entry and reset leave is kept by every step of the block. -/
theorem step_keeps_of_writes {P : State → Prop} (hinput : ∀ s l n, P s → P { s with agenda := l, schedCount := n })
    (hreset : ∀ s : State, configValid s.cfg = true → P s.resetEvent) (hfatal : ∀ (s : State) c, P s → P (s.clearResult.fatalEntry c))
    (hwrites : ∀ gs s t, Writes gs s t → P s → P t) (hs : P s) (h : step s = .next t) : P t := by
  refine step_keeps hinput hreset (fun i s t hs h => ?_) hs h
  obtain hw | ⟨c, rfl⟩ := exec_writes (gs := .links :: writes i) (.inl (by simp)) (by simp) h
  · exact hwrites _ s t hw hs
  · exact hfatal s c hs

/-- Settles O21: no write of a buffer record reaches the fixed buffer's fields; each is guarded by a state it is not in, or by its handle. -/
theorem fixedBufferIsPermanent : Obligations.FixedBufferIsPermanent := fun _ _ =>
  step_keeps_of_writes (fun _ _ _ h => h) (fun _ hc => (resetWith_sound hc).fixedBuffer) (fun _ _ h => h)
    fun _ _ _ hw h => hw.fixedBuffer h

/-- Settles O22: a buffer becomes radiable by LOAD_HEAD alone, with an array that ENCODE made. -/
theorem arraysStayWellFormed : Obligations.ArraysStayWellFormed := fun _ _ =>
  step_keeps_of_writes (fun _ _ _ h => h) (fun _ hc => (resetWith_sound hc).arrays) (fun _ _ h => h)
    fun _ _ _ hw h => hw.arrays h

/-! The engine's registers through a TICK. -/

/-- The move to the next buffer starts on a 1-bit of entry 0 and leaves the output as it is (R161). -/
theorem State.endTraversal_engine (h : s.endTraversal = .ok t) :
    t.eng.track = s.eng.track ∧ t.eng.bitval = entryBit t.eng.idx ∧ t.cfg = s.cfg := by
  have hcfg : t.cfg = s.cfg := (State.endTraversal_writes (List.Subset.refl _) h).constants.1
  obtain ⟨u, n, e, v, hu, -, hv, -, rfl⟩ := State.endTraversal_eq_ok.1 h
  obtain ⟨b, -, -, rfl⟩ := State.endOfArray_eq_ok.1 hu
  obtain ⟨c, -, ⟨-, rfl⟩ | ⟨-, -, -, rfl⟩⟩ := State.entry_eq_ok.1 hv
  · exact ⟨rfl, rfl, hcfg⟩
  · exact ⟨rfl, rfl, hcfg⟩

/-- NEXT_BIT leaves the output, and keeps the bit value the parity of the entry (R161). -/
theorem State.nextBit_engine (h : s.nextBit = .ok t) : t.eng.track = s.eng.track ∧ t.cfg = s.cfg ∧
    (s.eng.bitval = entryBit s.eng.idx → t.eng.bitval = entryBit t.eng.idx) := by
  obtain ⟨-, rfl⟩ | ⟨-, -, e, u, hu, hend⟩ := State.nextBit_eq_ok.1 h
  · exact ⟨rfl, rfl, id⟩
  have hu' : u.eng = s.eng ∧ u.cfg = s.cfg := by
    obtain ⟨c, -, ⟨-, rfl⟩ | ⟨-, -, -, rfl⟩⟩ := State.entry_eq_ok.1 hu
    · exact ⟨rfl, rfl⟩
    · exact ⟨rfl, rfl⟩
  obtain ⟨-, rfl⟩ | ⟨-, hend⟩ := hend
  · exact ⟨by simp [hu'.1], hu'.2, fun _ => rfl⟩
  · obtain ⟨ht, hb, hc⟩ := State.endTraversal_engine hend
    exact ⟨by simpa [hu'.1] using ht, hc.trans hu'.2, fun _ => hb⟩

/-- Every TICK that completes inverts the output (R37). -/
theorem tickBody_track (h : tickBody s = .ok t) : t.eng.track = !s.eng.track := by
  obtain ⟨n, k, -, h⟩ := tickBody_eq_ok.1 h
  obtain ⟨-, u, hu, rfl⟩ | ⟨-, rfl⟩ := State.afterCountdown_eq_ok.1 h
  · exact (State.nextBit_engine hu).1
  · rfl

/-- The countdown of a consistent engine is 1 or 2 (R35). -/
theorem EngineSound.half (hs : EngineSound s) : s.eng.half = 1 ∨ s.eng.half = 2 := by
  have h0 := hs.1
  revert h0
  generalize s.eng.half = n
  revert n
  decide

/-- A TICK keeps the engine's registers consistent (R160): the first half of a bit ends, or the next bit starts. -/
theorem tickBody_engineSound (hs : EngineSound s) (h : tickBody s = .ok t) : EngineSound t := by
  have hhalf := hs.half
  obtain ⟨-, htrack, hbit, hcmp⟩ := hs
  obtain ⟨n, k, hcd, h⟩ := tickBody_eq_ok.1 h
  rcases hhalf with h1 | h2
  · rw [State.countdown_of_one (s := s.toggleTrack) h1] at hcd
    obtain ⟨rfl, -⟩ := Prod.ext_iff.1 hcd
    obtain ⟨-, u, hu, rfl⟩ | ⟨hne, -⟩ := State.afterCountdown_eq_ok.1 h
    · obtain ⟨ht, -, hb⟩ := State.nextBit_engine hu
      have htr : u.eng.track = false := by
        rw [ht, State.countOpen_eng, State.toggleTrack_eng, htrack, h1]
        rfl
      exact ⟨(by decide : (2 : Fin 3) ≠ 0), htr, hb hbit, rfl⟩
    · exact absurd rfl hne
  · rw [State.countdown_of_two (s := s.toggleTrack) h2] at hcd
    obtain ⟨rfl, -⟩ := Prod.ext_iff.1 hcd
    obtain ⟨h10, -⟩ | ⟨-, rfl⟩ := State.afterCountdown_eq_ok.1 h
    · exact absurd h10 (by decide : (1 : Fin 3) ≠ 0)
    · refine ⟨(by decide : (1 : Fin 3) ≠ 0), ?_, hbit, hcmp⟩
      show (!s.eng.track) = decide ((1 : Fin 3) = 1)
      rw [htrack, h2]
      rfl

/-- A step other than TICK does not write the engine (R46). -/
theorem exec_engine {i : Instr} (hi : i ≠ .tick) (h : exec i s = .next t) : t.eng = s.eng ∧ t.cfg = s.cfg := by
  obtain hw | ⟨c, rfl⟩ := exec_writes (gs := .links :: writes i) (.inl (by simp)) (by simp) h
  · have hg : .engine ∉ Group.links :: writes i := by cases i <;> simp_all [writes]
    exact ⟨(hw.same hg).symm, hw.constants.1⟩
  · exact ⟨rfl, rfl⟩

/-- Settles O24: TICK's toggle is its only write of the output, and the engine is in no other step's footprint. -/
theorem trackIsToggledByTickOnly : Obligations.TrackIsToggledByTickOnly := by
  intro i s t h
  refine ⟨?_, fun hi => by rw [(exec_engine hi h).1]⟩
  rintro rfl hrun
  obtain ⟨-, -, hb⟩ := exec_eq_next_running h hrun
  exact tickBody_track (s := s.clearResult) hb

theorem exec_engineSound {i : Instr} (hs : EngineSound s) (h : exec i s = .next t) : EngineSound t := by
  by_cases hi : i = .tick
  · subst hi
    obtain ⟨-, -, hb | ⟨c, -, rfl⟩⟩ := exec_eq_next h
    · exact tickBody_engineSound (s := s.clearResult) hs hb
    · exact hs
  · obtain ⟨heng, hcfg⟩ := exec_engine hi h
    unfold EngineSound at hs ⊢
    rwa [heng, hcfg]

/-- Settles O23: TICK by its two halves, every other step by its footprint, reset by its values. -/
theorem engineRegistersStayConsistent : Obligations.EngineRegistersStayConsistent := fun _ _ =>
  step_keeps (fun _ _ _ h => h) (fun _ hc => (resetWith_sound hc).engine) fun _ _ _ hs h => exec_engineSound hs h

end Sys2Proof.Machine
end

section
/-! PROOFS. The lists of R44 under the operations over them: the ring (R133, R134), the free list (R130), the pending records (R131,
R132, R136, R143), each with the list before and after written out. -/

namespace Sys2Proof.Machine

variable {s t : State}

/-! Chains. -/

theorem Chain.append {f : Nat → Option Nat} {stop l : Option Nat} {q r : List Nat} :
    Chain f stop l (q ++ r) ↔ ∃ m, Chain f m l q ∧ Chain f stop m r := by
  induction q generalizing l with
  | nil => exact ⟨fun h => ⟨l, rfl, h⟩, fun ⟨_, h, h'⟩ => h ▸ h'⟩
  | cons h q ih =>
    simp only [List.cons_append, Chain, ih]
    exact ⟨fun ⟨h1, m, h2, h3⟩ => ⟨m, ⟨h1, h2⟩, h3⟩, fun ⟨m, ⟨h1, h2⟩, h3⟩ => ⟨h1, m, h2, h3⟩⟩

/-- A list that ends at `NIL` is empty when its first link is `NIL`. -/
theorem Chain.eq_nil_iff {f : Nat → Option Nat} {l : Option Nat} {q : List Nat} (h : Chain f none l q) : l = none ↔ q = [] := by
  cases q with
  | nil => exact ⟨fun _ => rfl, fun _ => h⟩
  | cons j q => simp [h.1]

theorem Chain.nodup_of_none {f : Nat → Option Nat} {l : Option Nat} {q : List Nat} (h : Chain f none l q) : q.Nodup :=
  h.nodup fun _ _ => nofun

/-- A record put behind the last of a list. -/
theorem Chain.concat {f g : Nat → Option Nat} {l : Option Nat} {q : List Nat} {z p : Nat} (h : Chain f none l q)
    (hz : q.getLast? = some z) (hp : p ∉ q) (hne : ∀ j ∈ q, j ≠ z → g j = f j) (hgz : g z = some p) (hgp : g p = none) :
    Chain g none l (q ++ [p]) := by
  obtain ⟨r, rfl⟩ := List.getLast?_eq_some_iff.1 hz
  have hzr : z ∉ r := fun hm => (List.disjoint_of_nodup_append h.nodup_of_none) hm (by simp)
  obtain ⟨m, hr, rfl, -⟩ := Chain.append.1 h
  refine Chain.append.2 ⟨some p, Chain.append.2 ⟨some z, hr.congr fun j hj => ?_, rfl, hgz⟩, rfl, hgp⟩
  exact (hne j (by simp [hj]) (by rintro rfl; exact hzr hj)).symm

/-! Views of the buffer records: what each list reads of them. -/

theorem State.prevOf_of_buf {h : Nat} {b : Buffer} (hb : s.bufs[h]? = some b) : s.prevOf h = b.prev := by
  simp [State.prevOf, hb]

/-- The record of the same handle, under an equal view. -/
theorem exists_of_map_eq {α β : Type} {π : α → β} {l m : List α} (h : l.map π = m.map π) {j : Nat} {d : α}
    (hd : m[j]? = some d) : ∃ b, l[j]? = some b ∧ π b = π d := by
  have := congrArg (·[j]?) h
  simp only [List.getElem?_map, hd, Option.map_some] at this
  exact Option.map_eq_some_iff.1 this

theorem bind_eq_of_map_eq {α β : Type} {π : α → β} {l m : List α} (h : l.map π = m.map π) {γ : Type} {f : α → Option γ}
    {g : β → Option γ} (hfg : ∀ a, f a = g (π a)) (j : Nat) : m[j]?.bind f = l[j]?.bind f := by
  have := congrArg (·[j]?.bind g) h
  simpa [List.getElem?_map, Option.bind_map, Function.comp_def, ← hfg] using this.symm

/-- Arenas that agree in a view of every buffer. -/
theorem map_eq_of_proj {α : Type} {π : Buffer → α} (h : ∀ j, t.proj π j = s.proj π j) : s.bufs.map π = t.bufs.map π :=
  List.ext_getElem? fun j => by rw [List.getElem?_map, List.getElem?_map]; exact (h j).symm

/-- A write of one buffer record, seen through a view it keeps, and from every other handle. -/
theorem proj_of_modify {α : Type} {π : Buffer → α} {h : Nat} {f : Buffer → Buffer} (ht : t.bufs = s.bufs.modify h f)
    (hf : ∀ b, s.bufs[h]? = some b → π (f b) = π b) (j : Nat) : t.proj π j = s.proj π j := by
  rw [State.proj, State.proj, ht, State.bufs_updBuf_getElem?]
  split
  next hj =>
    subst hj
    cases hb : s.bufs[h]? with
    | none => rfl
    | some b => simp [hf b hb]
  next => rfl

theorem proj_of_modify_ne {α : Type} {π : Buffer → α} {h j : Nat} {f : Buffer → Buffer} (ht : t.bufs = s.bufs.modify h f)
    (hj : j ≠ h) : t.proj π j = s.proj π j := by
  rw [State.proj, State.proj, ht, State.bufs_updBuf_getElem?, if_neg (Ne.symm hj)]

/-- A write of every buffer record by its handle, seen through a view it keeps at one of them. -/
theorem proj_of_map {α : Type} {π : Buffer → α} {f : Nat → Buffer → Buffer} (ht : ∀ j, t.bufs[j]? = s.bufs[j]?.map (f j)) {j : Nat}
    (hf : ∀ b, π (f j b) = π b) : t.proj π j = s.proj π j := by
  rw [State.proj, State.proj, ht]
  cases s.bufs[j]? <;> simp [hf]

/-! The ring. -/

/-- What the ring is of a buffer (R29, R30). -/
def Buffer.ringView (b : Buffer) : Option Nat × Option Nat × Bool := (b.next, b.prev, b.linked)

/-- The ring, buffer 0 included, as the cycle of its links (R29, R30, R44). -/
structure RingOf (s : State) (full : List Nat) : Prop where
  head : full.head? = some 0
  chain : Chain s.nextOf (some 0) (some 0) full
  nodup : full.Nodup
  linked : ∀ (h : Nat) (b : Buffer), s.bufs[h]? = some b → (b.linked = true ↔ h ∈ full)
  prev : ∀ h ∈ full, ∃ n, s.nextOf h = some n ∧ s.prevOf n = some h
  unlinked : ∀ (h : Nat) (b : Buffer), s.bufs[h]? = some b → b.linked = false → b.next = none ∧ b.prev = none

theorem State.prevOf_eq_some {h n : Nat} : s.prevOf n = some h ↔ ∃ c, s.bufs[n]? = some c ∧ c.prev = some h := by
  simp [State.prevOf, Option.bind_eq_some_iff]

theorem State.nextOf_eq_some {n h : Nat} : s.nextOf h = some n ↔ ∃ b, s.bufs[h]? = some b ∧ b.next = some n := by
  simp [State.nextOf, Option.bind_eq_some_iff]

/-- Invariant 1 of R44 is a ring, where buffer 0 is there. -/
theorem ringSound_iff {b₀ : Buffer} (h0 : s.bufs[0]? = some b₀) : RingSound s ↔ ∃ full, RingOf s full := by
  constructor
  · rintro ⟨ring, hc, hn, hb⟩
    refine ⟨0 :: ring, rfl, ⟨rfl, hc⟩, hn, fun h b hh => (hb h b hh).1, ?_, fun h b hh => (hb h b hh).2.2⟩
    have hstep : ∀ h b, s.bufs[h]? = some b → h ∈ 0 :: ring → ∃ n, s.nextOf h = some n ∧ s.prevOf n = some h := by
      intro h b hh hm
      obtain ⟨hl, hp, -⟩ := hb h b hh
      obtain ⟨n, c, hbn, hc, hcp⟩ := hp (hl.2 hm)
      exact ⟨n, by rw [State.nextOf_of_buf hh, hbn], State.prevOf_eq_some.2 ⟨c, hc, hcp⟩⟩
    have hwalk : ∀ (q : List Nat) (h : Nat) (b : Buffer), (∀ j ∈ h :: q, j ∈ 0 :: ring) → s.bufs[h]? = some b →
        Chain s.nextOf (some 0) (s.nextOf h) q → ∀ j ∈ h :: q, ∃ n, s.nextOf j = some n ∧ s.prevOf n = some j := by
      intro q
      induction q with
      | nil =>
        intro h b hm hh _ j hj
        rw [List.mem_singleton.1 hj]
        exact hstep h b hh (hm h (by simp))
      | cons i q ih =>
        intro h b hm hh hq j hj
        obtain ⟨n, hn, hnp⟩ := hstep h b hh (hm h (by simp))
        rcases List.mem_cons.1 hj with rfl | hj
        · exact ⟨n, hn, hnp⟩
        · obtain ⟨hi, hq⟩ := hq
          cases hn.symm.trans hi
          obtain ⟨c, hc, -⟩ := State.prevOf_eq_some.1 hnp
          exact ih _ c (fun x hx => hm x (List.mem_cons_of_mem _ hx)) hc hq j hj
    exact hwalk ring 0 b₀ (fun j hj => hj) h0 hc
  · rintro ⟨full, hr⟩
    obtain ⟨ring, rfl⟩ := List.head?_eq_some_iff.1 hr.head
    refine ⟨ring, hr.chain.2, hr.nodup, fun h b hh => ⟨hr.linked h b hh, fun hl => ?_, hr.unlinked h b hh⟩⟩
    obtain ⟨n, hn, hp⟩ := hr.prev h ((hr.linked h b hh).1 hl)
    obtain ⟨c, hc, hcp⟩ := State.prevOf_eq_some.1 hp
    exact ⟨n, c, by rw [← hn, State.nextOf_of_buf hh], hc, hcp⟩

/-- Every handle of the ring is in the arena. -/
theorem RingOf.buffer {full : List Nat} (hr : RingOf s full) {h : Nat} (hh : h ∈ full) :
    ∃ b, s.bufs[h]? = some b ∧ b.linked = true := by
  obtain ⟨n, hn, -⟩ := hr.prev h hh
  obtain ⟨b, hb, -⟩ := State.nextOf_eq_some.1 hn
  exact ⟨b, hb, (hr.linked h b hb).2 hh⟩

theorem RingOf.congr {full : List Nat} (hr : RingOf s full) (hp : ∀ j, t.proj Buffer.ringView j = s.proj Buffer.ringView j) :
    RingOf t full := by
  have hv := map_eq_of_proj hp
  have hnext : t.nextOf = s.nextOf := funext fun j => bind_eq_of_map_eq hv (g := fun v => v.1) (fun _ => rfl) j
  have hprev : t.prevOf = s.prevOf := funext fun j => bind_eq_of_map_eq hv (g := fun v => v.2.1) (fun _ => rfl) j
  have hbuf : ∀ (h : Nat) (d : Buffer), t.bufs[h]? = some d → ∃ b, s.bufs[h]? = some b ∧ b.next = d.next ∧ b.prev = d.prev ∧
      b.linked = d.linked := fun h d hd => by
    obtain ⟨b, hb, hbd⟩ := exists_of_map_eq hv hd
    simp only [Buffer.ringView, Prod.mk.injEq] at hbd
    exact ⟨b, hb, hbd⟩
  refine ⟨hr.head, by rw [hnext]; exact hr.chain, hr.nodup, fun h d hd => ?_, by rw [hnext, hprev]; exact hr.prev, fun h d hd hl => ?_⟩
  · obtain ⟨b, hb, -, -, hl⟩ := hbuf h d hd
    exact hl ▸ hr.linked h b hb
  · obtain ⟨b, hb, hn, hp, hl'⟩ := hbuf h d hd
    exact hn ▸ hp ▸ hr.unlinked h b hb (hl'.trans hl)

/-- The buffers after LINK_AFTER (R133): `h`, so far unlinked, stands between `c` and `n`. -/
def linkedAt (c n h j : Nat) (b : Buffer) : Buffer :=
  { b with next := if j = c then some h else if j = h then some n else b.next
           prev := if j = n then some h else if j = h then some c else b.prev
           linked := b.linked || decide (j = h) }

theorem State.linkAfter_of_next {c n h : Nat} {bc bn : Buffer} (hc : s.bufs[c]? = some bc) (hn : bc.next = some n)
    (hbn : s.bufs[n]? = some bn) (hch : h ≠ c) (hnh : h ≠ n) :
    ∃ t, s.linkAfter c h = .ok t ∧ t = { s with bufs := t.bufs } ∧ ∀ j, t.bufs[j]? = s.bufs[j]?.map (linkedAt c n h j) := by
  refine ⟨_, State.linkAfter_eq_ok.2 ⟨bc, n, bn, hc, hn, hbn, rfl⟩, rfl, fun j => ?_⟩
  simp only [State.updBuf_bufs, List.getElem?_modify, Option.map_eq_map, Option.map_map]
  refine congrArg (Option.map · _) (funext fun b => ?_)
  simp only [Function.comp_apply, linkedAt]
  by_cases hjh : h = j
  · subst hjh
    simp [hch, hnh, hch.symm, hnh.symm]
  · by_cases hjc : c = j
    · subst hjc
      by_cases hjn : n = c
      · simp [hjn, hjh, Ne.symm hjh]
      · simp [hjn, Ne.symm hjn, hjh, Ne.symm hjh]
    · by_cases hjn : n = j
      · subst hjn
        simp [hjh, Ne.symm hjh, hjc, Ne.symm hjc]
      · simp [hjn, Ne.symm hjn, hjh, Ne.symm hjh, hjc, Ne.symm hjc]

/-- Links of an arena each of whose records is written by its handle. -/
theorem links_of_map {f : Nat → Buffer → Buffer} (ht : ∀ j, t.bufs[j]? = s.bufs[j]?.map (f j)) {j : Nat} {b : Buffer}
    (hb : s.bufs[j]? = some b) : t.nextOf j = (f j b).next ∧ t.prevOf j = (f j b).prev := by
  simp [State.nextOf, State.prevOf, ht, hb]

/-- LINK_AFTER puts a buffer that has no links behind `c` on the ring (R133). -/
theorem RingOf.linkAfter {a b : List Nat} {c n h : Nat} {bh : Buffer} (hr : RingOf s (a ++ c :: b)) (hh : s.bufs[h]? = some bh)
    (hl : bh.linked = false) (hn : s.nextOf c = some n) (ht : ∀ j, t.bufs[j]? = s.bufs[j]?.map (linkedAt c n h j)) :
    RingOf t (a ++ c :: h :: b) := by
  have hfull : h ∉ a ++ c :: b := fun hm => by simp [(hr.linked h bh hh).2 hm] at hl
  have hperm : (a ++ c :: h :: b).Perm (h :: (a ++ c :: b)) := by
    have := List.perm_middle (a := h) (l₁ := a ++ [c]) (l₂ := b)
    simpa using this
  have hch : c ≠ h := by rintro rfl; exact hfull (by simp)
  have hprevn : s.prevOf n = some c := by
    obtain ⟨m, hm, hp⟩ := hr.prev c (by simp)
    cases hn.symm.trans hm
    exact hp
  have hnh : h ≠ n := by
    rintro rfl
    rw [State.prevOf_of_buf hh, (hr.unlinked h bh hh hl).2] at hprevn
    cases hprevn
  obtain ⟨bc, hbc, -⟩ := State.nextOf_eq_some.1 hn
  have hnext_ne : ∀ j ∈ a ++ c :: b, j ≠ c → t.nextOf j = s.nextOf j := by
    intro j hj hjc
    obtain ⟨d, hd, -⟩ := hr.buffer hj
    rw [(links_of_map ht hd).1, State.nextOf_of_buf hd]
    have hjh : j ≠ h := by rintro rfl; exact hfull hj
    simp [linkedAt, hjc, hjh]
  have hnextc : t.nextOf c = some h := by
    rw [(links_of_map ht hbc).1]
    simp [linkedAt]
  have hnexth : t.nextOf h = some n := by
    rw [(links_of_map ht hh).1]
    simp [linkedAt, hch.symm]
  refine ⟨?_, ?_, hperm.nodup_iff.2 (List.nodup_cons.2 ⟨hfull, hr.nodup⟩), fun j d hd => ?_, fun j hj => ?_, fun j d hd hdl => ?_⟩
  · have := hr.head
    cases a <;> simpa using this
  · obtain ⟨m, ha, rfl, hb⟩ := Chain.append.1 hr.chain
    have hnd := List.nodup_append.1 hr.nodup
    refine Chain.append.2 ⟨some c, ha.congr fun j hj => ?_, rfl, hnextc, ?_⟩
    · exact (hnext_ne j (by simp [hj]) (hnd.2.2 j hj c (by simp))).symm
    · rw [hnexth, ← hn]
      refine hb.congr fun j hj => (hnext_ne j (by simp [hj]) ?_).symm
      rintro rfl
      exact (List.nodup_cons.1 hnd.2.1).1 hj
  · rw [ht] at hd
    obtain ⟨b', hb', rfl⟩ := Option.map_eq_some_iff.1 hd
    rw [hperm.mem_iff, List.mem_cons, ← hr.linked j b' hb']
    simp [linkedAt, or_comm]
  · rcases List.mem_cons.1 (hperm.mem_iff.1 hj) with rfl | hj
    · obtain ⟨bn, hbn, -⟩ := State.prevOf_eq_some.1 hprevn
      exact ⟨n, hnexth, by rw [(links_of_map ht hbn).2]; simp [linkedAt]⟩
    · by_cases hjc : j = c
      · subst hjc
        exact ⟨h, hnextc, by rw [(links_of_map ht hh).2]; simp [linkedAt, hnh]⟩
      · obtain ⟨m, hm, hp⟩ := hr.prev j hj
        obtain ⟨bm, hbm, hbp⟩ := State.prevOf_eq_some.1 hp
        refine ⟨m, by rw [hnext_ne j hj hjc, hm], ?_⟩
        have hmn : m ≠ n := by rintro rfl; exact hjc (Option.some.inj (hp.symm.trans hprevn))
        have hmh : m ≠ h := by
          rintro rfl
          rw [State.prevOf_of_buf hh, (hr.unlinked m bh hh hl).2] at hp
          cases hp
        rw [(links_of_map ht hbm).2]
        simp [linkedAt, hmn, hmh, hbp]
  · rw [ht] at hd
    obtain ⟨b', hb', rfl⟩ := Option.map_eq_some_iff.1 hd
    simp only [linkedAt, Bool.or_eq_false_iff, decide_eq_false_iff_not] at hdl
    have hjc : j ≠ c := by
      rintro rfl
      rw [(hr.linked j b' hb').2 (by simp)] at hdl
      cases hdl.1
    have hjn : j ≠ n := by
      rintro rfl
      rw [State.prevOf_of_buf hb', (hr.unlinked j b' hb' hdl.1).2] at hprevn
      cases hprevn
    simpa [linkedAt, hjc, hjn, hdl.2] using hr.unlinked j b' hb' hdl.1

/-- The buffers after UNLINK (R134): `h` has left the place between `pv` and `nx`. -/
def unlinkedAt (pv nx h j : Nat) (b : Buffer) : Buffer :=
  { b with next := if j = h then none else if j = pv then some nx else b.next
           prev := if j = h then none else if j = nx then some pv else b.prev
           linked := b.linked && decide (j ≠ h) }

theorem State.unlink_of_links {pv nx h : Nat} {b bp bn : Buffer} (hb : s.bufs[h]? = some b) (hp : b.prev = some pv)
    (hn : b.next = some nx) (hbp : s.bufs[pv]? = some bp) (hbn : s.bufs[nx]? = some bn) :
    ∃ t, s.unlink h = .ok t ∧ t = { s with bufs := t.bufs } ∧ ∀ j, t.bufs[j]? = s.bufs[j]?.map (unlinkedAt pv nx h j) := by
  refine ⟨_, State.unlink_eq_ok.2 ⟨b, pv, nx, bp, bn, hb, hp, hn, hbp, hbn, rfl⟩, rfl, fun j => ?_⟩
  simp only [State.updBuf_bufs, List.getElem?_modify, Option.map_eq_map, Option.map_map]
  refine congrArg (Option.map · _) (funext fun b => ?_)
  simp only [Function.comp_apply, unlinkedAt, ne_eq, eq_comm (a := j)]
  by_cases hjn : nx = j <;> by_cases hjp : pv = j <;> by_cases hjh : h = j <;> simp [hjh, hjn, hjp]

/-- UNLINK takes a pool buffer off the ring (R134). -/
theorem RingOf.unlink {a b : List Nat} {h : Nat} (hr : RingOf s (a ++ h :: b)) (h0 : h ≠ 0) :
    ∃ pv nx t, s.prevOf h = some pv ∧ s.nextOf h = some nx ∧ s.unlink h = .ok t ∧ t = { s with bufs := t.bufs } ∧
      (∀ j, t.bufs[j]? = s.bufs[j]?.map (unlinkedAt pv nx h j)) ∧ RingOf t (a ++ b) := by
  obtain ⟨m, ha, rfl, hb⟩ := Chain.append.1 hr.chain
  obtain ⟨hnda, hndb, hdisj⟩ := List.nodup_append.1 hr.nodup
  obtain ⟨hhb, -⟩ := List.nodup_cons.1 hndb
  have hha : h ∉ a := fun hm => hdisj h hm h (by simp) rfl
  obtain ⟨a', pv, rfl⟩ : ∃ a' pv, a = a' ++ [pv] := by
    rcases List.eq_nil_or_concat a with rfl | ⟨a', pv, rfl⟩
    · exact absurd (Option.some.inj hr.head) h0
    · exact ⟨a', pv, by simp⟩
  obtain ⟨m, ha', rfl, hpv⟩ := Chain.append.1 ha
  have hpvh : s.prevOf h = some pv := by
    obtain ⟨n, hn, hp⟩ := hr.prev pv (by simp)
    cases hpv.symm.trans hn
    exact hp
  obtain ⟨nx, hnx, hpnx⟩ := hr.prev h (by simp)
  obtain ⟨bh, hbh, hbn⟩ := State.nextOf_eq_some.1 hnx
  obtain ⟨bp, hbp, -⟩ := hr.buffer (h := pv) (by simp)
  obtain ⟨bn, hbn', -⟩ := State.prevOf_eq_some.1 hpnx
  obtain ⟨t, hu, hframe, ht⟩ := State.unlink_of_links hbh (by rw [← hpvh, State.prevOf_of_buf hbh]) hbn hbp hbn'
  have hpvne : pv ≠ h := by rintro rfl; exact hha (by simp)
  have hperm : (a' ++ [pv] ++ h :: b).Perm (h :: (a' ++ [pv] ++ b)) := List.perm_middle
  have hmem : ∀ {j}, j ∈ a' ++ [pv] ++ b → j ∈ a' ++ [pv] ++ h :: b ∧ j ≠ h := fun hj =>
    ⟨hperm.mem_iff.2 (List.mem_cons_of_mem _ hj), by
      rintro rfl
      rcases List.mem_append.1 hj with hj | hj
      · exact hha hj
      · exact hhb hj⟩
  have hnext_ne : ∀ j ∈ a' ++ [pv] ++ b, j ≠ pv → t.nextOf j = s.nextOf j := by
    intro j hj hjp
    obtain ⟨d, hd, -⟩ := hr.buffer (hmem hj).1
    rw [(links_of_map ht hd).1, State.nextOf_of_buf hd]
    simp [unlinkedAt, hjp, (hmem hj).2]
  have hnextpv : t.nextOf pv = some nx := by
    rw [(links_of_map ht hbp).1]
    simp [unlinkedAt, hpvne]
  have hnda' : pv ∉ a' ∧ pv ∉ b := by
    refine ⟨fun hm => ?_, fun hm => hdisj pv (by simp) pv (by simp [hm]) rfl⟩
    exact List.disjoint_of_nodup_append hnda hm (by simp)
  refine ⟨pv, nx, t, hpvh, hnx, hu, hframe, ht, ?_, ?_, ?_, fun j d hd => ?_, fun j hj => ?_, fun j d hd hdl => ?_⟩
  · have := hr.head
    cases a' <;> simpa using this
  · refine Chain.append.2 ⟨some nx, Chain.append.2 ⟨some pv, ha'.congr fun j hj => ?_, rfl, hnextpv⟩, ?_⟩
    · exact (hnext_ne j (by simp [hj]) (by rintro rfl; exact hnda'.1 hj)).symm
    · rw [hnx] at hb
      exact hb.congr fun j hj => (hnext_ne j (by simp [hj]) (by rintro rfl; exact hnda'.2 hj)).symm
  · exact (List.nodup_cons.1 (hperm.nodup_iff.1 hr.nodup)).2
  · rw [ht] at hd
    obtain ⟨b', hb', rfl⟩ := Option.map_eq_some_iff.1 hd
    simp only [unlinkedAt, Bool.and_eq_true, hr.linked j b' hb', decide_eq_true_eq, hperm.mem_iff, List.mem_cons]
    exact ⟨fun ⟨h1, h2⟩ => h1.resolve_left h2, fun h1 => ⟨.inr h1, (hmem h1).2⟩⟩
  · by_cases hjp : j = pv
    · subst hjp
      refine ⟨nx, hnextpv, ?_⟩
      have hnxh : nx ≠ h := by
        rintro rfl
        exact hpvne (Option.some.inj (hpvh.symm.trans hpnx))
      rw [(links_of_map ht hbn').2]
      simp [unlinkedAt, hnxh]
    · obtain ⟨m, hm, hp⟩ := hr.prev j (hmem hj).1
      obtain ⟨bm, hbm, hbmp⟩ := State.prevOf_eq_some.1 hp
      refine ⟨m, by rw [hnext_ne j hj hjp, hm], ?_⟩
      have hmh : m ≠ h := by rintro rfl; exact hjp (Option.some.inj (hp.symm.trans hpvh))
      have hmn : m ≠ nx := by rintro rfl; exact (hmem hj).2 (Option.some.inj (hp.symm.trans hpnx))
      rw [(links_of_map ht hbm).2]
      simp [unlinkedAt, hmh, hmn, hbmp]
  · rw [ht] at hd
    obtain ⟨b', hb', rfl⟩ := Option.map_eq_some_iff.1 hd
    by_cases hjh : j = h
    · simp [unlinkedAt, hjh]
    · have hl : b'.linked = false := by simpa [unlinkedAt, hjh] using hdl
      have hjm : j ∉ a' ++ [pv] ++ h :: b := fun hm => by simp [(hr.linked j b' hb').2 hm] at hl
      have hjp : j ≠ pv := by rintro rfl; exact hjm (by simp)
      have hjn : j ≠ nx := by
        rintro rfl
        rw [State.prevOf_of_buf hb', (hr.unlinked j b' hb' hl).2] at hpnx
        cases hpnx
      simpa [unlinkedAt, hjh, hjp, hjn] using hr.unlinked j b' hb' hl

end Sys2Proof.Machine
end

section
/-! PROOFS. The free list and the pending records under the operations over them. -/

namespace Sys2Proof.Machine

variable {s t : State}

/-! The free list. -/

/-- What the free list is of a buffer (R32, R44). -/
def Buffer.freeView (b : Buffer) : Option Nat × Bool := (b.fnext, decide (b.state = .empty))

/-- Invariant 2 of R44 for the free list written out. -/
structure FreeListOf (s : State) (free : List Nat) : Prop where
  chain : Chain s.fnextOf none s.pool.freeHead free
  bound : ∀ h ∈ free, h < s.bufs.length
  empty : ∀ (h : Nat) (b : Buffer), s.bufs[h]? = some b → (h ∈ free ↔ b.state = .empty)

theorem freeListSound_iff : FreeListSound s ↔ ∃ free, FreeListOf s free :=
  ⟨fun ⟨free, h1, _, h2, h3⟩ => ⟨free, h1, h2, h3⟩, fun ⟨free, h⟩ => ⟨free, h.chain, h.chain.nodup_of_none, h.bound, h.empty⟩⟩

/-- Handles whose buffers agree in what the free list reads of them. -/
theorem fnextOf_eq_of_proj {j : Nat} (h : t.proj Buffer.freeView j = s.proj Buffer.freeView j) : t.fnextOf j = s.fnextOf j := by
  have := congrArg (·.bind fun v => v.1) h
  simpa [State.proj, State.fnextOf, Option.bind_map, Function.comp_def, Buffer.freeView] using this

theorem empty_iff_of_proj {j : Nat} {d : Buffer} (h : t.proj Buffer.freeView j = s.proj Buffer.freeView j)
    (hd : t.bufs[j]? = some d) : ∃ b, s.bufs[j]? = some b ∧ (d.state = .empty ↔ b.state = .empty) := by
  simp only [State.proj, hd, Option.map_some] at h
  obtain ⟨b, hb, hbd⟩ := Option.map_eq_some_iff.1 h.symm
  refine ⟨b, hb, ?_⟩
  simp only [Buffer.freeView, Prod.mk.injEq, decide_eq_decide] at hbd
  exact hbd.2.symm

theorem FreeListOf.congr {free : List Nat} (hf : FreeListOf s free) (hlen : t.bufs.length = s.bufs.length)
    (hv : ∀ j, t.proj Buffer.freeView j = s.proj Buffer.freeView j) (hh : t.pool.freeHead = s.pool.freeHead) : FreeListOf t free := by
  refine ⟨?_, fun h hm => hlen ▸ hf.bound h hm, fun j d hd => ?_⟩
  · rw [hh]
    exact hf.chain.congr fun j _ => (fnextOf_eq_of_proj (hv j)).symm
  · obtain ⟨b, hb, hbd⟩ := empty_iff_of_proj (hv j) hd
    rw [hbd, hf.empty j b hb]

/-- POP_FREE's buffer, when it is no longer `EMPTY`, has left the free list (R130). -/
theorem FreeListOf.take {free : List Nat} {h : Nat} {d : Buffer} (hf : FreeListOf s (h :: free))
    (hlen : t.bufs.length = s.bufs.length) (hv : ∀ j ≠ h, t.proj Buffer.freeView j = s.proj Buffer.freeView j)
    (hh : t.pool.freeHead = s.fnextOf h) (hd : t.bufs[h]? = some d) (hne : d.state ≠ .empty) : FreeListOf t free := by
  have hnot : h ∉ free := (List.nodup_cons.1 hf.chain.nodup_of_none).1
  refine ⟨?_, fun j hm => hlen ▸ hf.bound j (by simp [hm]), fun j c hc => ?_⟩
  · rw [hh]
    exact hf.chain.2.congr fun j hj => (fnextOf_eq_of_proj (hv j (by rintro rfl; exact hnot hj))).symm
  · by_cases hj : j = h
    · subst hj
      cases hd.symm.trans hc
      simp [hnot, hne]
    · obtain ⟨b, hb, hbc⟩ := empty_iff_of_proj (hv j hj) hc
      rw [hbc, ← hf.empty j b hb]
      simp [hj]

/-- PUSH_FREE of a buffer that was not `EMPTY` and is now (R130). -/
theorem FreeListOf.put {free : List Nat} {h : Nat} {b d : Buffer} (hf : FreeListOf s free) (hlen : t.bufs.length = s.bufs.length)
    (hv : ∀ j ≠ h, t.proj Buffer.freeView j = s.proj Buffer.freeView j) (hh : t.pool.freeHead = some h)
    (hb : s.bufs[h]? = some b) (hne : b.state ≠ .empty) (hd : t.bufs[h]? = some d) (hde : d.state = .empty)
    (hn : d.fnext = s.pool.freeHead) : FreeListOf t (h :: free) := by
  have hnot : h ∉ free := fun hm => hne ((hf.empty h b hb).1 hm)
  refine ⟨⟨hh, ?_⟩, fun j hm => ?_, fun j c hc => ?_⟩
  · rw [State.fnextOf_of_buf hd, hn]
    exact hf.chain.congr fun j hj => (fnextOf_eq_of_proj (hv j (by rintro rfl; exact hnot hj))).symm
  · rw [hlen]
    rcases List.mem_cons.1 hm with rfl | hm
    · exact lt_length_of_getElem? hb
    · exact hf.bound j hm
  · by_cases hj : j = h
    · subst hj
      cases hd.symm.trans hc
      simp [hde]
    · obtain ⟨b', hb', hbc⟩ := empty_iff_of_proj (hv j hj) hc
      rw [hbc, ← hf.empty j b' hb']
      simp [hj]

/-! The pending records. -/

/-- What the queues are of a buffer (R27). -/
def Buffer.queueView (b : Buffer) : Option Nat × Option Nat := (b.phead, b.ptail)

/-- The queue of buffer `h`, whose record is `b`, read off its links (R27, R44). -/
structure QueueOf (s : State) (owner : Nat → Option Nat) (h : Nat) (b : Buffer) (q : List Nat) : Prop where
  chain : Chain s.pnextOf none b.phead q
  tail : b.ptail = q.getLast?
  mem : ∀ p, p ∈ q ↔ p < s.pkts.length ∧ owner p = some h
  sound : ∀ (p : Nat) (k : Packet), p ∈ q → s.pkts[p]? = some k → PacketSound s.cfg k

/-- Invariant 6 of R44 for pending records, with the owners and the lists written out. -/
structure PendingOf (s : State) (owner : Nat → Option Nat) (free : List Nat) (queue : Nat → List Nat) : Prop where
  chain : Chain s.pnextOf none s.pool.pfreeHead free
  mem : ∀ p, p ∈ free ↔ p < s.pkts.length ∧ owner p = none
  bound : ∀ p h, owner p = some h → h < s.bufs.length
  queues : ∀ (h : Nat) (b : Buffer), s.bufs[h]? = some b → QueueOf s owner h b (queue h)

theorem pendingSound_iff : PendingSound s ↔ ∃ owner free queue, PendingOf s owner free queue := by
  constructor
  · rintro ⟨owner, free, queue, hc, -, hm, hb, hq⟩
    refine ⟨owner, free, queue, hc, hm, hb, fun h b hh => ?_⟩
    obtain ⟨h1, -, h2, h3, h4⟩ := hq h b hh
    exact ⟨h1, h2, h3, h4⟩
  · rintro ⟨owner, free, queue, hp⟩
    refine ⟨owner, free, queue, hp.chain, hp.chain.nodup_of_none, hp.mem, hp.bound, fun h b hh => ?_⟩
    have hq := hp.queues h b hh
    exact ⟨hq.chain, hq.chain.nodup_of_none, hq.tail, hq.mem, hq.sound⟩

/-- A queue whose records are not written. -/
theorem QueueOf.frame {owner owner' : Nat → Option Nat} {h : Nat} {b d : Buffer} {q : List Nat} (hq : QueueOf s owner h b q)
    (hlen : t.pkts.length = s.pkts.length) (hcfg : t.cfg = s.cfg) (hk : ∀ p ∈ q, t.pkts[p]? = s.pkts[p]?)
    (ho : ∀ p, owner' p = some h ↔ owner p = some h) (hd : b.queueView = d.queueView) : QueueOf t owner' h d q := by
  obtain ⟨hph, hpt⟩ := Prod.ext_iff.1 hd
  refine ⟨?_, hpt.symm.trans hq.tail, fun p => by rw [hlen, ho, hq.mem], fun p k hp hpk => ?_⟩
  · rw [← show b.phead = d.phead from hph]
    exact hq.chain.congr fun p hp => by rw [State.pnextOf, State.pnextOf, hk p hp]
  · rw [hcfg]
    exact hq.sound p k hp (hk p hp ▸ hpk)

theorem PendingOf.congr {owner : Nat → Option Nat} {free : List Nat} {queue : Nat → List Nat} (hp : PendingOf s owner free queue)
    (hbuf : ∀ j, t.proj Buffer.queueView j = s.proj Buffer.queueView j) (hk : t.pkts = s.pkts)
    (hh : t.pool.pfreeHead = s.pool.pfreeHead) (hcfg : t.cfg = s.cfg) : PendingOf t owner free queue := by
  have hv := map_eq_of_proj hbuf
  have hlen : t.bufs.length = s.bufs.length := by simpa using (congrArg List.length hv).symm
  refine ⟨?_, fun p => by rw [hk, hp.mem], fun p h ho => hlen ▸ hp.bound p h ho, fun h d hd => ?_⟩
  · rw [hh]
    exact hp.chain.congr fun j _ => by rw [State.pnextOf, State.pnextOf, hk]
  · obtain ⟨b, hb, hbd⟩ := exists_of_map_eq hv hd
    exact (hp.queues h b hb).frame (by rw [hk]) hcfg (fun p _ => by rw [hk]) (fun _ => Iff.rfl) hbd

/-- A queued record has one owner. -/
theorem PendingOf.owner_eq {owner : Nat → Option Nat} {free : List Nat} {queue : Nat → List Nat} (hp : PendingOf s owner free queue)
    {h p : Nat} {b : Buffer} (hb : s.bufs[h]? = some b) (hm : p ∈ queue h) : owner p = some h :=
  (((hp.queues h b hb).mem p).1 hm).2

/-- RELEASE_QUEUE frees the queue of buffer `h` (R132). -/
theorem PendingOf.release {owner : Nat → Option Nat} {free : List Nat} {queue : Nat → List Nat} {h : Nat} {b d : Buffer}
    (hp : PendingOf s owner free queue) (hb : s.bufs[h]? = some b) (hr : QueueReleased s t (queue h))
    (hlen : t.bufs.length = s.bufs.length) (hklen : t.pkts.length = s.pkts.length) (hcfg : t.cfg = s.cfg)
    (hbuf : ∀ j ≠ h, t.proj Buffer.queueView j = s.proj Buffer.queueView j) (hd : t.bufs[h]? = some d)
    (hdq : d.queueView = (none, none)) : PendingSound t := by
  have hq := hp.queues h b hb
  obtain ⟨hkeep, -, hfree⟩ := hr
  refine pendingSound_iff.2 ⟨fun p => if owner p = some h then none else owner p, (queue h).reverse ++ free,
    fun j => if j = h then [] else queue j, ?_, fun p => ?_, fun p j ho => ?_, fun j c hc => ?_⟩
  · refine hfree free hp.chain fun p hm hf => ?_
    have := ((hp.mem p).1 hf).2
    rw [hp.owner_eq hb hm] at this
    cases this
  · rw [List.mem_append, List.mem_reverse, hq.mem, hp.mem, hklen]
    by_cases ho : owner p = some h <;> simp [ho]
  · rw [hlen]
    split at ho
    · cases ho
    · exact hp.bound p j ho
  · by_cases hj : j = h
    · subst hj
      cases hd.symm.trans hc
      obtain ⟨hph, hpt⟩ := Prod.ext_iff.1 hdq
      refine ⟨by rw [if_pos rfl]; exact hph, by rw [if_pos rfl]; exact hpt, fun p => ?_, by simp⟩
      by_cases ho : owner p = some j <;> simp [ho]
    · have hv := hbuf j hj
      simp only [State.proj, hc, Option.map_some] at hv
      obtain ⟨b', hb', hbc⟩ := Option.map_eq_some_iff.1 hv.symm
      rw [if_neg hj]
      refine (hp.queues j b' hb').frame hklen hcfg (fun p hm => hkeep p fun hmh => ?_) (fun p => ?_) hbc
      · exact hj (Option.some.inj ((hp.owner_eq hb' hm).symm.trans (hp.owner_eq hb hmh)))
      · by_cases ho : owner p = some h
        · simp [ho, Ne.symm hj]
        · simp [ho]

/-- LOAD_HEAD frees the head of the queue of buffer `h` (R136). -/
theorem PendingOf.load {owner : Nat → Option Nat} {free : List Nat} {queue : Nat → List Nat} {h p : Nat} {b d : Buffer} {k : Packet}
    (hp : PendingOf s owner free queue) (hb : s.bufs[h]? = some b) (hhead : b.phead = some p) (hk : s.pkts[p]? = some k)
    (hlen : t.bufs.length = s.bufs.length) (hpkts : t.pkts = (s.pushPfree p).pkts) (hpool : t.pool.pfreeHead = some p)
    (hcfg : t.cfg = s.cfg) (hbuf : ∀ j ≠ h, t.proj Buffer.queueView j = s.proj Buffer.queueView j) (hd : t.bufs[h]? = some d)
    (hdq : d.queueView = (k.next, if k.next = none then none else b.ptail)) : PendingSound t := by
  have hq := hp.queues h b hb
  have hplt := lt_length_of_getElem? hk
  have hklen : t.pkts.length = s.pkts.length := by simp [hpkts]
  have hpn : t.pnextOf = (s.pushPfree p).pnextOf := by funext j; rw [State.pnextOf, State.pnextOf, hpkts]
  obtain ⟨rest, hrest⟩ : ∃ rest, queue h = p :: rest := by
    cases hqh : queue h with
    | nil =>
      rw [hq.chain.eq_nil_iff.2 hqh] at hhead
      cases hhead
    | cons p' rest =>
      have := hq.chain
      rw [hqh, hhead] at this
      cases this.1
      exact ⟨rest, rfl⟩
  rw [hrest] at hq
  have hchain := hq.chain.2
  rw [State.pnextOf_of_pkt hk] at hchain
  have hprest : p ∉ rest := (List.nodup_cons.1 hq.chain.nodup_of_none).1
  have howner : owner p = some h := ((hq.mem p).1 (by simp)).2
  have hpfree : p ∉ free := fun hm => by simp [((hp.mem p).1 hm).2] at howner
  have hsame : ∀ {j}, j ≠ p → t.pkts[j]? = s.pkts[j]? := fun hj => by rw [hpkts, State.pushPfree_pkts_ne (Ne.symm hj)]
  refine pendingSound_iff.2 ⟨Function.update owner p none, p :: free, Function.update queue h rest, ?_, fun j => ?_, fun j i ho => ?_,
    fun j c hc => ?_⟩
  · refine ⟨hpool, ?_⟩
    rw [hpn, State.pushPfree_pnextOf hplt]
    exact hp.chain.congr fun j hj => (State.pushPfree_pnextOf_ne (by rintro rfl; exact hpfree hj)).symm
  · rw [List.mem_cons, hp.mem, hklen]
    by_cases hj : j = p
    · simp [hj, hplt]
    · simp [hj]
  · rw [hlen]
    by_cases hj : j = p
    · simp [hj] at ho
    · rw [Function.update_of_ne hj] at ho
      exact hp.bound j i ho
  · by_cases hj : j = h
    · subst hj
      cases hd.symm.trans hc
      obtain ⟨hph, hpt⟩ := Prod.ext_iff.1 hdq
      rw [Function.update_self]
      refine ⟨?_, ?_, fun i => ?_, fun i k' hi hk' => ?_⟩
      · rw [show d.phead = k.next from hph]
        exact hchain.congr fun i hi => by
          rw [hpn, State.pushPfree_pnextOf_ne (by rintro rfl; exact hprest hi)]
      · rw [show d.ptail = _ from hpt, hq.tail]
        by_cases hn : k.next = none
        · simp [hn, hchain.eq_nil_iff.1 hn]
        · have : rest ≠ [] := fun h => hn (hchain.eq_nil_iff.2 h)
          simp [hn, List.getLast?_cons, List.getLast?_eq_some_getLast this]
      · have := hq.mem i
        rw [List.mem_cons] at this
        rw [hklen]
        by_cases hi : i = p
        · simp [hi, hprest]
        · simpa [hi] using this
      · have hip : i ≠ p := by rintro rfl; exact hprest hi
        rw [hcfg]
        exact hq.sound i k' (by simp [hi]) ((hsame hip).symm.trans hk')
    · have hv := hbuf j hj
      simp only [State.proj, hc, Option.map_some] at hv
      obtain ⟨b', hb', hbc⟩ := Option.map_eq_some_iff.1 hv.symm
      rw [Function.update_of_ne hj]
      refine (hp.queues j b' hb').frame hklen hcfg (fun i hi => hsame ?_) (fun i => ?_) hbc
      · rintro rfl
        exact hj (Option.some.inj ((hp.owner_eq hb' hi).symm.trans howner))
      · by_cases hi : i = p
        · simp [hi, howner, Ne.symm hj]
        · simp [hi]

/-- EXTEND takes the head of the pending free list and puts it, written, behind the queue of buffer `h` (R143). -/
theorem PendingOf.enqueue {owner : Nat → Option Nat} {free : List Nat} {queue : Nat → List Nat} {h p : Nat} {b d : Buffer} {k : Packet}
    (hp : PendingOf s owner free queue) (hb : s.bufs[h]? = some b) (hhead : s.pool.pfreeHead = some p) (hk : s.pkts[p]? = some k)
    (hlen : t.bufs.length = s.bufs.length) (hklen : t.pkts.length = s.pkts.length)
    (hpkts : ∀ j ≠ p, t.pkts[j]? = s.pkts[j]?.map fun k => if b.ptail = some j then { k with next := some p } else k)
    {kp : Packet} (hkp : t.pkts[p]? = some kp) (hkn : kp.next = none) (hks : PacketSound s.cfg kp)
    (hpool : t.pool.pfreeHead = k.next) (hcfg : t.cfg = s.cfg)
    (hbuf : ∀ j ≠ h, t.proj Buffer.queueView j = s.proj Buffer.queueView j) (hd : t.bufs[h]? = some d)
    (hdq : d.queueView = (if b.phead = none then some p else b.phead, some p)) : PendingSound t := by
  have hq := hp.queues h b hb
  have hplt := lt_length_of_getElem? hk
  obtain ⟨rest, rfl⟩ : ∃ rest, free = p :: rest := by
    cases free with
    | nil =>
      rw [hp.chain.eq_nil_iff.2 rfl] at hhead
      cases hhead
    | cons p' rest =>
      have := hp.chain.1
      rw [hhead] at this
      cases this
      exact ⟨rest, rfl⟩
  have hprest : p ∉ rest := (List.nodup_cons.1 hp.chain.nodup_of_none).1
  have howner : owner p = none := ((hp.mem p).1 (by simp)).2
  have hpq : p ∉ queue h := fun hm => by simp [hp.owner_eq hb hm] at howner
  have htail : ∀ {j}, b.ptail = some j → owner j = some h := fun hj =>
    hp.owner_eq hb (List.mem_of_getLast? (hq.tail.symm.trans hj))
  have hsame : ∀ {j}, j ≠ p → owner j ≠ some h → t.pkts[j]? = s.pkts[j]? := fun {j} hj ho => by
    rw [hpkts j hj]
    simp [show b.ptail ≠ some j from fun h => ho (htail h)]
  have hsameNext : ∀ {j}, j ≠ p → b.ptail ≠ some j → t.pnextOf j = s.pnextOf j := fun {j} hj ho => by
    rw [State.pnextOf, hpkts j hj]
    simp [ho, State.pnextOf]
  refine pendingSound_iff.2 ⟨Function.update owner p (some h), rest, Function.update queue h (queue h ++ [p]), ?_, fun j => ?_,
    fun j i ho => ?_, fun j c hc => ?_⟩
  · rw [hpool, ← State.pnextOf_of_pkt hk]
    refine hp.chain.2.congr fun j hj => ?_
    have hjp : j ≠ p := by rintro rfl; exact hprest hj
    have hjo : owner j = none := ((hp.mem j).1 (by simp [hj])).2
    rw [State.pnextOf, State.pnextOf, hsame hjp (by simp [hjo])]
  · have := hp.mem j
    rw [List.mem_cons] at this
    rw [hklen]
    by_cases hj : j = p
    · simp [hj, hprest]
    · simpa [hj] using this
  · rw [hlen]
    by_cases hj : j = p
    · subst hj
      rw [Function.update_self] at ho
      cases ho
      exact lt_length_of_getElem? hb
    · rw [Function.update_of_ne hj] at ho
      exact hp.bound j i ho
  · by_cases hj : j = h
    · subst hj
      cases hd.symm.trans hc
      obtain ⟨hph, hpt⟩ := Prod.ext_iff.1 hdq
      rw [Function.update_self]
      refine ⟨?_, ?_, fun i => ?_, fun i k' hi hk' => ?_⟩
      · have hpn : t.pnextOf p = none := by rw [State.pnextOf_of_pkt hkp, hkn]
        rw [show d.phead = _ from hph]
        rcases List.eq_nil_or_concat (queue j) with hnil | ⟨r, z, hz⟩
        · rw [hnil, if_pos (hq.chain.eq_nil_iff.2 hnil)]
          exact ⟨rfl, hpn⟩
        · have hlast : (queue j).getLast? = some z := by rw [hz]; simp
          have hzt : b.ptail = some z := hq.tail.trans hlast
          have hzp : z ≠ p := by rintro rfl; simp [htail hzt] at howner
          rw [if_neg fun h => by simp [hq.chain.eq_nil_iff.1 h] at hlast]
          refine hq.chain.concat hlast hpq (fun i hi hiz => hsameNext ?_ ?_) ?_ hpn
          · rintro rfl; exact hpq hi
          · rw [hzt]; exact fun h => hiz (Option.some.inj h).symm
          · obtain ⟨kz, hkz⟩ : ∃ kz, s.pkts[z]? = some kz :=
              ⟨_, List.getElem?_eq_getElem ((hq.mem z).1 (List.mem_of_getLast? hlast)).1⟩
            rw [State.pnextOf, hpkts z hzp, hkz]
            simp [hzt]
      · rw [show d.ptail = _ from hpt]
        simp
      · rw [List.mem_append, hq.mem, hklen, List.mem_singleton]
        by_cases hi : i = p
        · simp [hi, hplt]
        · simp [hi]
      · rw [hcfg]
        by_cases hip : i = p
        · subst hip
          cases hkp.symm.trans hk'
          exact hks
        · rw [hpkts i hip] at hk'
          obtain ⟨k₀, hk₀, rfl⟩ := Option.map_eq_some_iff.1 hk'
          have := hq.sound i k₀ (by simpa [hip] using hi) hk₀
          split
          · exact this
          · exact this
    · have hv := hbuf j hj
      simp only [State.proj, hc, Option.map_some] at hv
      obtain ⟨b', hb', hbc⟩ := Option.map_eq_some_iff.1 hv.symm
      rw [Function.update_of_ne hj]
      refine (hp.queues j b' hb').frame hklen hcfg (fun i hi => ?_) (fun i => ?_) hbc
      · have hio := hp.owner_eq hb' hi
        refine hsame ?_ fun h => hj (Option.some.inj (hio.symm.trans h))
        rintro rfl
        simp [hio] at howner
      · by_cases hi : i = p
        · simp [hi, howner, Ne.symm hj]
        · simp [hi]

end Sys2Proof.Machine
end

section
/-! PROOFS. Soundness but for one pool buffer, which an operation is at work on: every operation that a step is made of answers in
such a state, keeps it, and says what it leaves in its buffer. -/

namespace Sys2Proof.Machine

variable {gs : List Group} {s t : State} {n h : Nat}

/-! The parts of soundness. -/

/-- The parts of soundness that are not about the lists: what the Timing Engine plays, and the registers. -/
structure EngineSide (s : State) : Prop where
  configuration : configValid s.cfg = true
  arenas : Memory.wf s = true
  running : s.halted = false
  noFatal : s.fatalCode = 0
  fixedBuffer : FixedBufferSound s
  arrays : ArraysSound s
  cursor : CursorRadiable s
  engine : EngineSound s
  position : PositionSound s
  scan : s.scanPos.toNat ≤ s.cfg.numBuffers - 1

/-- A step that writes neither the engine nor the scan position leaves the engine's side as it is, whatever it writes. -/
theorem EngineSide.of_writes (hs : EngineSide s) (hw : Writes gs s t) (he : .engine ∉ gs) (hsc : .scanPos ∉ gs) : EngineSide t := by
  obtain ⟨hcfg, hhalt, hcode, -, -, hblen, hklen⟩ := hw.constants
  obtain ⟨-, -, heng, -, -, hscan, -⟩ := hw.registers
  have heng := heng he
  obtain ⟨b, hb, hr⟩ := hs.cursor
  obtain ⟨d, hd, hdr, hda⟩ := hw.radiable he hb hr
  have hwf : Memory.wf t = Memory.wf s := SameArenas.wf ⟨hblen, hklen, hcfg⟩
  refine ⟨hcfg ▸ hs.configuration, hwf.trans hs.arenas, hhalt ▸ hs.running, hcode ▸ hs.noFatal, hw.fixedBuffer hs.fixedBuffer,
    hw.arrays hs.arrays, ⟨d, heng ▸ hd, hdr⟩, ?_, ?_, ?_⟩
  · have := hs.engine
    unfold EngineSound at this ⊢
    rwa [← heng, hcfg]
  · obtain ⟨b', e, hb', he, hl, hj⟩ := hs.position
    cases hb.symm.trans hb'
    refine ⟨d, e, ?_, ?_, ?_, ?_⟩ <;> rw [← heng]
    · exact hd
    · rwa [hda]
    · exact hl
    · rwa [hda]
  · rw [hcfg, ← hscan hsc]
    exact hs.scan

/-- What the pool invariants are of a buffer. -/
def Buffer.poolView (b : Buffer) : BufState × Bool × Bool × Option Nat := (b.state, b.linked, b.isOpen, b.phead)

theorem PoolBufferSound.congr {b d : Buffer} (h : d.poolView = b.poolView) (hb : PoolBufferSound b) : PoolBufferSound d := by
  simp only [Buffer.poolView, Prod.mk.injEq] at h
  obtain ⟨h1, h2, h3, h4⟩ := h
  unfold PoolBufferSound
  rw [h1, h2, h3, h4]
  exact hb

/-- A sound state that has read `n` free values. -/
def SoundAt (n : Nat) (s : State) : Prop := Sound s ∧ s.openCount = n

/-- A state that has read `n` free values and is sound but for what invariants 2 and 3 say of buffer `h`. -/
structure SoundBut (n h : Nat) (s : State) : Prop where
  side : EngineSide s
  count : s.openCount = n
  ring : ∃ full, RingOf s full
  freeList : ∃ free, FreeListOf s free
  pending : PendingSound s
  others : ∀ (j : Nat) (b : Buffer), s.bufs[j]? = some b → j ≠ 0 → j ≠ h → PoolBufferSound b

theorem SoundAt.soundBut (hs : SoundAt n s) (h : Nat) : SoundBut n h s := by
  obtain ⟨hs, hn⟩ := hs
  obtain ⟨b, hb, -⟩ := hs.fixedBuffer
  exact ⟨⟨hs.configuration, hs.arenas, hs.running, hs.noFatal, hs.fixedBuffer, hs.arrays, hs.cursor, hs.engine, hs.position, hs.scan⟩,
    hn, (ringSound_iff hb).1 hs.ring, freeListSound_iff.1 hs.freeList, hs.pending, fun j b hb h0 _ => hs.poolBuffers j b hb h0⟩

theorem SoundBut.soundAt (hs : SoundBut n h s) (hh : ∀ b, s.bufs[h]? = some b → h ≠ 0 → PoolBufferSound b) : SoundAt n s := by
  have hi := hs.side
  obtain ⟨b, hb, -⟩ := hi.fixedBuffer
  refine ⟨⟨hi.configuration, hi.arenas, hi.running, hi.noFatal, hi.fixedBuffer, hi.arrays, hi.cursor, hi.engine, hi.position,
    (ringSound_iff hb).2 hs.ring, freeListSound_iff.2 hs.freeList, fun j b hb h0 => ?_, hs.pending, hi.scan⟩, hs.count⟩
  by_cases hj : j = h
  · subst hj
    exact hh b hb h0
  · exact hs.others j b hb h0 hj

/-- What the block only puts out is no part of soundness. -/
theorem SoundAt.withOutputs (hs : SoundAt n s) (la : Bool) (ps : Word) (hi : List Event) (ag : List Input) (sc : Nat) (re : List Byte) :
    SoundAt n { s with latch := la, packetsSent := ps, history := hi, agenda := ag, schedCount := sc, result := re } :=
  ⟨⟨hs.1.configuration, hs.1.arenas, hs.1.running, hs.1.noFatal, hs.1.fixedBuffer, hs.1.arrays, hs.1.cursor, hs.1.engine,
    hs.1.position, hs.1.ring, hs.1.freeList, hs.1.poolBuffers, hs.1.pending, hs.1.scan⟩, hs.2⟩

/-- An operation keeps soundness but for its buffer when it keeps the lists and leaves the other buffers to the pool as they are. -/
theorem SoundBut.step (hs : SoundBut n h s) (hw : Writes gs s t) (he : .engine ∉ gs) (hsc : .scanPos ∉ gs)
    (hcount : t.openCount = s.openCount) (hring : ∃ full, RingOf t full) (hfree : ∃ free, FreeListOf t free)
    (hpend : PendingSound t) (hpool : ∀ j ≠ h, t.proj Buffer.poolView j = s.proj Buffer.poolView j) : SoundBut n h t := by
  refine ⟨hs.side.of_writes hw he hsc, hcount.trans hs.count, hring, hfree, hpend, fun j d hd h0 hj => ?_⟩
  have hv := hpool j hj
  simp only [State.proj, hd, Option.map_some] at hv
  obtain ⟨b, hb, hbd⟩ := Option.map_eq_some_iff.1 hv.symm
  exact (hs.others j b hb h0 hj).congr hbd.symm

/-- The fixed buffer is no pool buffer: it is not `EMPTY` and not live. -/
theorem EngineSide.ne_zero (hs : EngineSide s) {b : Buffer} (hb : s.bufs[h]? = some b) (hf : b.state ≠ .fixed) : h ≠ 0 := by
  rintro rfl
  obtain ⟨c, hc, hfix, -⟩ := hs.fixedBuffer
  cases hb.symm.trans hc
  exact hf hfix

/-- A buffer that may not be played is not the one being played. -/
theorem EngineSide.cursor_ne (hs : EngineSide s) {b : Buffer} (hb : s.bufs[h]? = some b) (hr : b.state.radiable = false) :
    s.eng.cursor ≠ h := by
  rintro rfl
  obtain ⟨c, hc, hcr⟩ := hs.cursor
  cases hb.symm.trans hc
  rw [hcr] at hr
  cases hr

/-! Writes of one buffer that no list reads. -/

theorem SoundBut.updBuf (hs : SoundBut n h s) {b : Buffer} {f : Buffer → Buffer} (hb : s.bufs[h]? = some b)
    (hw : BufferWrites s.cfg gs h b (f b)) (he : .engine ∉ gs) (hsc : .scanPos ∉ gs) (hring : (f b).ringView = b.ringView)
    (hfree : (f b).freeView = b.freeView) (hqueue : (f b).queueView = b.queueView) :
    SoundBut n h (s.updBuf h f) ∧ (s.updBuf h f).bufs[h]? = some (f b) := by
  have only : ∀ c, s.bufs[h]? = some c → c = b := fun c hc => Option.some.inj (hc.symm.trans hb)
  have hview : ∀ {α : Type} {π : Buffer → α}, π (f b) = π b → ∀ j, (s.updBuf h f).proj π j = s.proj π j := fun hπ =>
    proj_of_modify rfl fun c hc => only c hc ▸ hπ
  refine ⟨hs.step (.single (.buffer fun c hc => only c hc ▸ hw)) he hsc rfl ?_ ?_ ?_ fun j hj => proj_of_modify_ne rfl hj, by simp [hb]⟩
  · exact hs.ring.imp fun _ hr => hr.congr (hview hring)
  · exact hs.freeList.imp fun _ hf => hf.congr (by simp) (hview hfree) rfl
  · obtain ⟨owner, free, queue, hp⟩ := pendingSound_iff.1 hs.pending
    exact pendingSound_iff.2 ⟨owner, free, queue, hp.congr (hview hqueue) rfl rfl rfl⟩

/-! RELEASE_QUEUE. -/

theorem SoundBut.releaseQueue (hs : SoundBut n h s) {b : Buffer} (hb : s.bufs[h]? = some b) :
    ∃ t, s.releaseQueue h = .ok t ∧ SoundBut n h t ∧ t.bufs[h]? = some { b with phead := none, ptail := none } := by
  obtain ⟨owner, free, queue, hp⟩ := pendingSound_iff.1 hs.pending
  have hq := hp.queues h b hb
  have hlt : ∀ p ∈ queue h, p < s.pkts.length := fun p hm => ((hq.mem p).1 hm).1
  have hlist : PendingListIs s b.phead (queue h) := by
    refine ⟨hq.chain, hq.chain.nodup_of_none, hlt, ?_⟩
    have hwf := hs.side.arenas
    simp only [Memory.wf, Bool.and_eq_true, beq_iff_eq] at hwf
    exact hwf.2 ▸ length_le_of_nodup hq.chain.nodup_of_none hlt
  obtain ⟨t, ht, hrel, heq⟩ := State.releaseQueue_of_list hb hlist
  have hbufs : t.bufs = s.bufs.modify h fun b => { b with phead := none, ptail := none } := by rw [heq]
  have hd : t.bufs[h]? = some { b with phead := none, ptail := none } := by simp [hbufs, hb]
  obtain ⟨hblen, hklen, hcfg⟩ := State.releaseQueue_arenas ht
  refine ⟨t, ht, hs.step (State.releaseQueue_writes (List.Subset.refl _) ht) (by simp) (by simp) (by rw [heq]) ?_ ?_ ?_
    fun j hj => proj_of_modify_ne hbufs hj, hd⟩
  · exact hs.ring.imp fun _ hr => hr.congr (proj_of_modify hbufs fun _ _ => rfl)
  · exact hs.freeList.imp fun _ hf => hf.congr hblen (proj_of_modify hbufs fun _ _ => rfl) (by rw [heq])
  · exact hp.release hb hrel hblen hklen hcfg (fun j hj => proj_of_modify_ne hbufs hj) hd rfl

/-! The free list. -/

/-- A buffer whose queue is empty has no tail either (R27). -/
theorem QueueOf.tail_of_head {owner : Nat → Option Nat} {b : Buffer} {q : List Nat} (hq : QueueOf s owner h b q)
    (hh : b.phead = none) : b.ptail = none := by
  rw [hq.tail, hq.chain.eq_nil_iff.1 hh]
  rfl

/-- A buffer in `LOAD` goes back to the free list (R147, R149, R182). -/
theorem SoundBut.pushFree (hs : SoundBut n h s) {b : Buffer} {f : Buffer → Buffer} (hb : s.bufs[h]? = some b) (hl : b.state = .load)
    (hw : BufferWrites s.cfg [.bufState, .isOpen, .freeLists] h b (f b)) (hring : (f b).ringView = b.ringView) (he : (f b).state = .empty)
    (hqueue : (f b).queueView = b.queueView) :
    SoundBut n h ((s.updBuf h f).pushFree h) ∧
      ((s.updBuf h f).pushFree h).bufs[h]? = some { f b with fnext := s.pool.freeHead } := by
  have only : ∀ c, s.bufs[h]? = some c → c = b := fun c hc => Option.some.inj (hc.symm.trans hb)
  have hbufs : ((s.updBuf h f).pushFree h).bufs = s.bufs.modify h fun b => { f b with fnext := s.pool.freeHead } :=
    List.modify_modify_eq ..
  have hd : ((s.updBuf h f).pushFree h).bufs[h]? = some { f b with fnext := s.pool.freeHead } := by simp [hb]
  have hwr : Writes [.bufState, .isOpen, .freeLists] s ((s.updBuf h f).pushFree h) := by
    refine Relation.ReflTransGen.trans (.single (.buffer fun c hc => ?_)) (State.pushFree_writes (by simp) h)
    exact only c hc ▸ hw
  refine ⟨hs.step hwr (by simp) (by simp) rfl ?_ ?_ ?_ fun j hj => proj_of_modify_ne hbufs hj, hd⟩
  · exact hs.ring.imp fun _ hr => hr.congr (proj_of_modify hbufs fun c hc => only c hc ▸ hring)
  · obtain ⟨free, hf⟩ := hs.freeList
    exact ⟨_, hf.put (by simp) (fun j hj => proj_of_modify_ne hbufs hj) rfl hb (by rw [hl]; nofun) hd he rfl⟩
  · obtain ⟨owner, free, queue, hp⟩ := pendingSound_iff.1 hs.pending
    exact pendingSound_iff.2 ⟨owner, free, queue, hp.congr (proj_of_modify hbufs fun c hc => only c hc ▸ hqueue) rfl rfl rfl⟩

/-! LOAD_HEAD. -/

theorem SoundBut.loadHead (hs : SoundBut n h s) {b : Buffer} {p : Nat} (hb : s.bufs[h]? = some b) (hl : b.state = .load)
    (hhead : b.phead = some p) :
    ∃ t d, s.loadHead h = .ok t ∧ SoundBut n h t ∧ t.eng = s.eng ∧ t.bufs[h]? = some d ∧ d.state = .run ∧ d.ringView = b.ringView ∧
      d.isOpen = b.isOpen ∧ ∀ full, RingOf s full → RingOf t full := by
  obtain ⟨owner, free, queue, hp⟩ := pendingSound_iff.1 hs.pending
  have hq := hp.queues h b hb
  have hmem : p ∈ queue h := by
    have := hq.chain
    rw [hhead] at this
    cases hqh : queue h with
    | nil => rw [hqh] at this; cases this
    | cons p' rest => rw [hqh] at this; cases this.1; simp
  obtain ⟨k, hk⟩ : ∃ k, s.pkts[p]? = some k := ⟨_, List.getElem?_eq_getElem ((hq.mem p).1 hmem).1⟩
  obtain ⟨hlen, henc⟩ := hq.sound p k hmem hk
  obtain ⟨a, ha⟩ := Encoded.isOk_iff.1 henc
  have hcmd : s.command k = k.bytes := by rw [State.command_of_le (by omega), List.take_of_length_le (by omega)]
  have ht : s.loadHead h = .ok (s.loaded h p b k a) :=
    State.loadHead_eq_ok.2 ⟨b, p, k, a, hb, hl, hhead, hk, by rw [hcmd]; exact ha, rfl⟩
  obtain ⟨hbufs, hpkts, hpool, heng, hcfg, hcount⟩ := s.loaded_registers h p b k a
  rw [Packet.absent_of_le (by omega), Nat.add_zero] at hcount
  have hblen := (State.loadHead_arenas ht).1
  have hd : (s.loaded h p b k a).bufs[h]? = some (loadedBuffer b k a b) := by simp [hbufs, hb]
  have hring : ∀ full, RingOf s full → RingOf (s.loaded h p b k a) full := fun full hr =>
    hr.congr (proj_of_modify hbufs fun _ _ => rfl)
  refine ⟨_, _, ht, hs.step (State.loadHead_writes (List.Subset.refl _) ht) (by simp) (by simp) hcount (hs.ring.imp hring) ?_ ?_
    fun j hj => proj_of_modify_ne hbufs hj, heng, hd, rfl, rfl, rfl, hring⟩
  · refine hs.freeList.imp fun _ hf => hf.congr hblen (proj_of_modify hbufs fun c hc => ?_) (by rw [hpool])
    cases hb.symm.trans hc
    simp [Buffer.freeView, hl, loadedBuffer]
  · exact hp.load hb hhead hk hblen hpkts (by rw [hpool]) hcfg (fun j hj => proj_of_modify_ne hbufs hj) hd rfl

/-! The ring. -/

/-- The buffer being played is on the ring (R44), unless it is the one at work on. -/
theorem SoundBut.cursor_mem (hs : SoundBut n h s) {full : List Nat} (hr : RingOf s full) (hc : s.eng.cursor ≠ h) :
    s.eng.cursor ∈ full := by
  by_cases h0 : s.eng.cursor = 0
  · rw [h0]
    exact List.mem_of_mem_head? hr.head
  · obtain ⟨b, hb, hrad⟩ := hs.side.cursor
    refine (hr.linked _ b hb).1 ?_
    rcases hs.others _ b hb h0 hc with ⟨he, -⟩ | ⟨-, hl⟩ | ⟨he, -⟩
    · rw [he] at hrad; cases hrad
    · exact hl
    · rw [he] at hrad; cases hrad

/-- COMPLETE puts its buffer behind the one being played (R146). -/
theorem SoundBut.linkAfter (hs : SoundBut n h s) {b : Buffer} (hb : s.bufs[h]? = some b) (hl : b.linked = false)
    (hc : s.eng.cursor ≠ h) :
    ∃ t d, s.linkAfter s.eng.cursor h = .ok t ∧ SoundBut n h t ∧ t.bufs[h]? = some d ∧ d.linked = true ∧ d.state = b.state := by
  obtain ⟨full, hr⟩ := hs.ring
  have hmem := hs.cursor_mem hr hc
  obtain ⟨nx, hnx, hp⟩ := hr.prev _ hmem
  obtain ⟨bc, hbc, hbcn⟩ := State.nextOf_eq_some.1 hnx
  obtain ⟨bn, hbn, hbnp⟩ := State.prevOf_eq_some.1 hp
  have hnh : h ≠ nx := by
    rintro rfl
    cases hb.symm.trans hbn
    rw [(hr.unlinked h b hb hl).2] at hbnp
    cases hbnp
  obtain ⟨t, ht, heq, hbufs⟩ := State.linkAfter_of_next hbc hbcn hbn (Ne.symm hc) hnh
  have hd : t.bufs[h]? = some (linkedAt s.eng.cursor nx h h b) := by simp [hbufs, hb]
  refine ⟨t, _, ht, hs.step (State.linkAfter_writes (gs := [.links]) (by simp) ht) (by simp) (by simp) (by rw [heq]) ?_ ?_ ?_
    fun j hj => proj_of_map hbufs fun c => by simp [Buffer.poolView, linkedAt, hj], hd, by simp [linkedAt], rfl⟩
  · obtain ⟨a, z, rfl⟩ := List.append_of_mem hmem
    exact ⟨_, hr.linkAfter hb hl hnx hbufs⟩
  · exact hs.freeList.imp fun _ hf => hf.congr (State.linkAfter_arenas ht).1 (fun _ => proj_of_map hbufs fun _ => rfl) (by rw [heq])
  · obtain ⟨owner, free, queue, hp⟩ := pendingSound_iff.1 hs.pending
    exact pendingSound_iff.2 ⟨owner, free, queue, hp.congr (fun _ => proj_of_map hbufs fun _ => rfl) (by rw [heq]) (by rw [heq]) (by rw [heq])⟩

/-- A buffer in `LOAD` leaves the ring (R182). -/
theorem SoundBut.unlink (hs : SoundBut n h s) {b : Buffer} {a z : List Nat} (hr : RingOf s (a ++ h :: z)) (hb : s.bufs[h]? = some b)
    (hl : b.state = .load) :
    ∃ t d, s.unlink h = .ok t ∧ SoundBut n h t ∧ RingOf t (a ++ z) ∧ t.bufs[h]? = some d ∧ d.linked = false ∧
      d.state = .load ∧ d.isOpen = b.isOpen ∧ d.phead = b.phead := by
  have h0 : h ≠ 0 := hs.side.ne_zero hb (by rw [hl]; nofun)
  obtain ⟨pv, nx, t, -, -, ht, heq, hbufs, hrt⟩ := hr.unlink h0
  have hd : t.bufs[h]? = some (unlinkedAt pv nx h h b) := by simp [hbufs, hb]
  refine ⟨t, _, ht, hs.step (State.unlink_writes (gs := [.links]) (by simp) hb hl ht) (by simp) (by simp) (by rw [heq]) ⟨_, hrt⟩ ?_ ?_
    fun j hj => proj_of_map hbufs fun c => by simp [Buffer.poolView, unlinkedAt, hj], hrt, hd, by simp [unlinkedAt], hl, rfl, rfl⟩
  · exact hs.freeList.imp fun _ hf => hf.congr (State.unlink_arenas ht).1 (fun _ => proj_of_map hbufs fun _ => rfl) (by rw [heq])
  · obtain ⟨owner, free, queue, hp⟩ := pendingSound_iff.1 hs.pending
    exact pendingSound_iff.2 ⟨owner, free, queue, hp.congr (fun _ => proj_of_map hbufs fun _ => rfl) (by rw [heq]) (by rw [heq]) (by rw [heq])⟩

end Sys2Proof.Machine
end

section
/-! PROOFS. Every host command answers in a sound state and leaves a sound one (R44, R215). -/

namespace Sys2Proof.Machine

variable {gs : List Group} {s t : State} {n h : Nat}

/-- A command answers, and leaves a sound state. -/
def Answers (n : Nat) (x : Attempt Reply) : Prop := ∃ r, x = .ok r ∧ SoundAt n r.state

/-- The pool invariants of a buffer of a sound state. -/
theorem SoundAt.pool (hs : SoundAt n s) {b : Buffer} (hb : s.bufs[h]? = some b) (h0 : h ≠ 0) : PoolBufferSound b :=
  hs.1.poolBuffers h b hb h0

/-- The buffer of a host handle that is accepted is a pool buffer that is live and linked, or in `LOAD` under construction (R62). -/
theorem SoundAt.accepted (hs : SoundAt n s) (ha : s.acceptsHandle h = true) : ∃ b, s.bufs[h]? = some b ∧ h ≠ 0 ∧ b.isOpen = true ∧
    ((b.state.live = true ∧ b.linked = true) ∨ (b.state = .load ∧ b.linked = false)) := by
  obtain ⟨b, h1, -, hb, ho⟩ := State.acceptsHandle_iff.1 ha
  have h0 : h ≠ 0 := by omega
  refine ⟨b, hb, h0, ho, ?_⟩
  rcases hs.pool hb h0 with ⟨-, -, hc, -⟩ | hl | ⟨hst, hl, -⟩
  · rw [hc] at ho; cases ho
  · exact .inl hl
  · exact .inr ⟨hst, hl⟩

theorem BufState.code_lt_of_live {st : BufState} : st.live = true → st.code.toNat < 5 := by cases st <;> decide

theorem BufState.live_ne_empty {st : BufState} (h : st.live = true) : st ≠ .empty := by rintro rfl; cases h

/-! ACQUIRE. -/

/-- A sound state's ring (R135): all its buffers but buffer 0 are live. -/
theorem SoundAt.ringIs (hs : SoundAt n s) : ∃ ring, RingIs s ring ∧ RingOf s (0 :: ring) := by
  obtain ⟨full, hr⟩ := (hs.soundBut 0).ring
  obtain ⟨ring, rfl⟩ := List.head?_eq_some_iff.1 hr.head
  have h0 := (List.nodup_cons.1 hr.nodup).1
  refine ⟨ring, ⟨hr.chain.2, h0, ?_, fun j hj => ?_⟩, hr⟩
  · have hlen := length_le_of_nodup hr.nodup fun j hj => lt_length_of_getElem? (hr.buffer hj).choose_spec.1
    have hwf := hs.1.arenas
    simp only [Memory.wf, Bool.and_eq_true, beq_iff_eq] at hwf
    simp only [List.length_cons] at hlen
    omega
  · obtain ⟨b, hb, hl⟩ := hr.buffer (List.mem_cons_of_mem _ hj)
    refine ⟨b, hb, ?_⟩
    rcases hs.pool hb (by rintro rfl; exact h0 hj) with ⟨-, hl', -⟩ | ⟨hlive, -⟩ | ⟨-, hl', -⟩
    · rw [hl] at hl'; cases hl'
    · exact hlive
    · rw [hl] at hl'; cases hl'

/-- FIND_LIVE's walk over live buffers answers: with one of them, or none of the identity is among them (R141). -/
theorem State.findLiveIn_of_live {addr : Word} {pol : Polarity} {l : List Nat}
    (hl : ∀ j ∈ l, ∃ b, s.bufs[j]? = some b ∧ b.state.live = true) :
    (∃ h ∈ l, s.findLiveIn addr pol l = .ok (some h)) ∨
      (s.findLiveIn addr pol l = .ok none ∧ ∀ j ∈ l, ∀ b, s.bufs[j]? = some b → ¬ (b.addr = addr ∧ b.pol = pol)) := by
  induction l with
  | nil => exact .inr ⟨rfl, by simp⟩
  | cons j rest ih =>
    obtain ⟨b, hb, hlive⟩ := hl j (by simp)
    cases hst : sameTarget b addr pol with
    | true => exact .inl ⟨j, by simp, State.findLiveIn_cons.2 ⟨b, hb, hlive, .inl ⟨hst, rfl⟩⟩⟩
    | false =>
      rcases ih fun i hi => hl i (by simp [hi]) with ⟨h, hm, hf⟩ | ⟨hf, hn⟩
      · exact .inl ⟨h, by simp [hm], State.findLiveIn_cons.2 ⟨b, hb, hlive, .inr ⟨hst, hf⟩⟩⟩
      · refine .inr ⟨State.findLiveIn_cons.2 ⟨b, hb, hlive, .inr ⟨hst, hf⟩⟩, fun i hi c hc => ?_⟩
        rcases List.mem_cons.1 hi with rfl | hi
        · cases hb.symm.trans hc
          rw [← sameTarget_iff, hst]
          nofun
        · exact hn i hi c hc

/-- FIND_LIVE answers in a sound state (R141). -/
theorem SoundAt.findLive (hs : SoundAt n s) (addr : Word) (pol : Polarity) :
    (∃ h b, s.findLive addr pol = .ok (some h) ∧ s.bufs[h]? = some b ∧ b.state.live = true ∧ b.linked = true) ∨
      (s.findLive addr pol = .ok none ∧
        ∀ (h : Nat) (b : Buffer), s.bufs[h]? = some b → b.linked = true → ¬ Targets b addr pol) := by
  obtain ⟨ring, hring, hr⟩ := hs.ringIs
  have hord := State.ringOrder_of_ringIs hring
  rcases State.findLiveIn_of_live (addr := addr) (pol := pol) hring.2.2.2 with ⟨h, hm, hf⟩ | ⟨hf, hn⟩
  · obtain ⟨b, hb, hl⟩ := hr.buffer (List.mem_cons_of_mem _ hm)
    obtain ⟨c, hc, hlive⟩ := hring.2.2.2 h hm
    cases hb.symm.trans hc
    exact .inl ⟨h, b, State.findLive_eq_ok.2 ⟨ring, hord, hf⟩, hb, hlive, hl⟩
  · refine .inr ⟨State.findLive_eq_ok.2 ⟨ring, hord, hf⟩, fun h b hb hl ⟨hlive, htgt⟩ => ?_⟩
    rcases List.mem_cons.1 ((hr.linked h b hb).1 hl) with rfl | hm
    · exact (hs.soundBut 0).side.ne_zero hb (by rintro hfix; rw [hfix] at hlive; cases hlive) rfl
    · exact hn h hm b hb htgt

theorem SoundAt.reuse (hs : SoundAt n s) {b : Buffer} (hb : s.bufs[h]? = some b) (hlive : b.state.live = true)
    (hl : b.linked = true) (action : Word) : Answers n (s.reuse h action) := by
  obtain ⟨t, ht, hst, htb⟩ := (hs.soundBut h).releaseQueue hb
  obtain ⟨hsu, hub⟩ := hst.updBuf (gs := [.action, .isOpen, .reply])
    (f := fun b => { b with replyWhen := .never, action := action, isOpen := true }) htb
    (.head (.reopened action hlive (by simp) (by simp)) (.single (.reply .never _ (by simp)))) (by simp) (by simp) rfl rfl rfl
  refine ⟨_, State.reuse_eq_ok.2 ⟨t, ht, rfl⟩, hsu.soundAt fun c hc _ => ?_⟩
  cases hub.symm.trans hc
  exact .inr (.inl ⟨hlive, hl⟩)

/-- The record of a buffer that ACQUIRE has taken (R140). -/
def takenBuffer (pol : Polarity) (addr action : Word) (b : Buffer) : Buffer :=
  { b with state := .load, addr := addr, pol := pol, action := action, repeatCount := 0, phead := none, ptail := none,
           replyWhen := .never, replyToken := 0, linked := false, isOpen := true, fnext := none }

theorem State.allocate_of_free {b : Buffer} (hh : s.pool.freeHead = some h) (hb : s.bufs[h]? = some b) (he : b.state = .empty)
    (pol : Polarity) (addr action : Word) :
    s.allocate pol addr action =
      .ok { status := .ok, handle := some h, state := (s.setFreeHead b.fnext).updBuf h (takenBuffer pol addr action) } := by
  refine State.allocate_eq_ok.2 (.inr ⟨h, _, State.popFree_eq_ok.2 ⟨hh, b, hb, he, rfl⟩, ?_⟩)
  simp only [State.updBuf, List.modify_modify_eq]
  rfl

/-- ACQUIRE's new-buffer path answers: nothing is free, or the head of the free list is taken (R140). -/
theorem SoundAt.allocate (hs : SoundAt n s) (pol : Polarity) (addr action : Word) : Answers n (s.allocate pol addr action) := by
  cases hfh : s.pool.freeHead with
  | none => exact ⟨_, State.allocate_eq_ok.2 (.inl ⟨hfh, rfl⟩), hs.withOutputs _ _ _ _ _ _⟩
  | some h =>
    have hsb := hs.soundBut h
    obtain ⟨free, hf⟩ := hsb.freeList
    obtain ⟨rest, rfl⟩ : ∃ rest, free = h :: rest := by
      have := hf.chain
      rw [hfh] at this
      cases free with
      | nil => cases this
      | cons j rest => cases this.1; exact ⟨rest, rfl⟩
    obtain ⟨b, hb⟩ : ∃ b, s.bufs[h]? = some b := ⟨_, List.getElem?_eq_getElem (hf.bound h (by simp))⟩
    have he : b.state = .empty := (hf.empty h b hb).1 (by simp)
    obtain ⟨hl, hh⟩ : b.linked = false ∧ b.phead = none := by
      rcases hs.pool hb (hsb.side.ne_zero hb (by rw [he]; nofun)) with ⟨-, hl, -, hh⟩ | ⟨hlive, -⟩ | ⟨hst, -⟩
      · exact ⟨hl, hh⟩
      · exact absurd he (BufState.live_ne_empty hlive)
      · rw [he] at hst; cases hst
    have hr := State.allocate_of_free hfh hb he pol addr action
    refine ⟨_, hr, ?_⟩
    have hwr := State.allocate_writes (gs := [.bufState, .identity, .action, .repeatCount, .queue, .reply, .isOpen, .freeLists,
      .links, .history]) (.inl (by simp)) (by simp) hr
    have hd : ((s.setFreeHead b.fnext).updBuf h (takenBuffer pol addr action)).bufs[h]? = some (takenBuffer pol addr action b) := by
      simp [hb]
    refine (hsb.step hwr (by simp) (by simp) rfl ?_ ?_ ?_ fun j hj => proj_of_modify_ne rfl hj).soundAt fun c hc _ => ?_
    · refine hsb.ring.imp fun _ hr => hr.congr (proj_of_modify rfl fun c hc => ?_)
      cases hb.symm.trans hc
      simp [Buffer.ringView, takenBuffer, hl]
    · exact ⟨rest, hf.take (by simp) (fun j hj => proj_of_modify_ne rfl hj) (State.fnextOf_of_buf hb).symm hd nofun⟩
    · obtain ⟨owner, pfree, queue, hp⟩ := pendingSound_iff.1 hs.1.pending
      refine pendingSound_iff.2 ⟨owner, pfree, queue, hp.congr (proj_of_modify rfl fun c hc => ?_) rfl rfl rfl⟩
      cases hb.symm.trans hc
      simp [Buffer.queueView, takenBuffer, hh, (hp.queues h b hb).tail_of_head hh]
    · cases hd.symm.trans hc
      exact .inr (.inr ⟨rfl, rfl, rfl⟩)

theorem SoundAt.acquire (hs : SoundAt n s) (pol : Polarity) (addr action : Word) (ow : Bool) :
    Answers n (s.acquire pol addr action ow) := by
  cases hr : addressInRange pol addr with
  | false => exact ⟨_, State.acquire_eq_ok.2 (.inl ⟨hr, rfl⟩), hs⟩
  | true =>
    obtain ⟨r, halloc, hsr⟩ := hs.allocate pol addr action
    cases ow with
    | false => exact ⟨r, State.acquire_eq_ok.2 (.inr (.inr ⟨hr, nofun, halloc⟩)), hsr⟩
    | true =>
      obtain ⟨h, b, hf, hb, hlive, hl⟩ | ⟨hf, -⟩ := hs.findLive addr pol
      · obtain ⟨r, hreuse, hsr⟩ := hs.reuse hb hlive hl action
        exact ⟨r, State.acquire_eq_ok.2 (.inr (.inl ⟨hr, rfl, h, hf, hreuse⟩)), hsr⟩
      · exact ⟨r, State.acquire_eq_ok.2 (.inr (.inr ⟨hr, fun _ => hf, halloc⟩)), hsr⟩

/-! EXTEND. -/

/-- The record of an EXTEND that encodes can be encoded again (R143). -/
theorem extendPacket_sound {c : Config} {a : ExtendArgs} (hc : configValid c = true)
    (he : (encodePacket c a.d a.pre.toNat a.post.toNat).isOk = true) : PacketSound c (extendPacket a) := by
  obtain ⟨x, hx⟩ := Encoded.isOk_iff.1 he
  obtain ⟨-, -, hlen⟩ := argsOk_bounds (encodePacket_eq_ok.1 hx).1
  obtain ⟨-, -, -, hmax⟩ := configValid_bounds hc
  refine ⟨?_, he⟩
  show a.d.length = (BitVec.ofNat 8 a.d.length).toNat
  rw [BitVec.toNat_ofNat, Nat.mod_eq_of_lt (by omega)]

/-- EXTEND's buffer, so far `b`, with record `p` behind its queue (R143). -/
def queuedBuffer (b : Buffer) (p : Nat) (c : Buffer) : Buffer :=
  { c with phead := if b.phead = none then some p else c.phead, ptail := some p }

/-- EXTEND's append answers where a queue that is not empty has a tail (R143). -/
theorem State.enqueue_of_tail {b : Buffer} {p : Nat} (hb : s.bufs[h]? = some b)
    (htail : b.phead ≠ none → ∃ q k, b.ptail = some q ∧ s.pkts[q]? = some k) :
    ∃ t, s.enqueue h p = .ok t ∧ t = { s with bufs := s.bufs.modify h (queuedBuffer b p), pkts := t.pkts } ∧
      ∀ j, t.pkts[j]? = s.pkts[j]?.map fun k => if b.phead ≠ none ∧ b.ptail = some j then { k with next := some p } else k := by
  by_cases hp : b.phead = none
  · have hf : queuedBuffer b p = fun c => { c with phead := some p, ptail := some p } := funext fun c => by simp [queuedBuffer, hp]
    refine ⟨_, State.enqueue_eq_ok.2 ⟨b, hb, .inl ⟨hp, rfl⟩⟩, ?_, fun j => by simp [hp]⟩
    simp only [State.updBuf, List.modify_modify_eq, hf, Function.comp_def]
  · have hf : queuedBuffer b p = fun c => { c with ptail := some p } := funext fun c => by simp [queuedBuffer, hp]
    obtain ⟨q, k, hq, hk⟩ := htail hp
    refine ⟨_, State.enqueue_eq_ok.2 ⟨b, hb, .inr ⟨hp, q, k, hq, hk, rfl⟩⟩, by rw [hf]; rfl, fun j => ?_⟩
    by_cases hj : q = j <;> simp [hp, hq, hj]

/-- EXTEND's new record, taken from the pending free list and written (R131, R143). -/
theorem State.popPfree_write {p : Nat} {k : Packet} (hh : s.pool.pfreeHead = some p) (hk : s.pkts[p]? = some k) (r : Packet) :
    ∃ u, s.popPfree = .ok (p, u) ∧
      u.updPkt p (fun _ => r) = { s with pkts := s.pkts.set p r, pool := { s.pool with pfreeHead := k.next } } := by
  refine ⟨_, State.popPfree_eq_ok.2 ⟨hh, k, hk, rfl⟩, ?_⟩
  simp only [State.updPkt, State.setPfreeHead, modify_eq_set hk, set_modify_same]

/-- EXTEND's new record, written and put behind its buffer's queue (R143). -/
theorem SoundBut.enqueue (hs : SoundBut n h s) {b : Buffer} {p : Nat} {a : ExtendArgs} (hb : s.bufs[h]? = some b) (h0 : h ≠ 0)
    (hhead : s.pool.pfreeHead = some p) (he : (encodePacket s.cfg a.d a.pre.toNat a.post.toNat).isOk = true) :
    ∃ u v, s.popPfree = .ok (p, u) ∧ (u.updPkt p fun _ => extendPacket a).enqueue h p = .ok v ∧ SoundBut n h v ∧
      v.bufs[h]? = some (queuedBuffer b p b) := by
  obtain ⟨owner, free, queue, hp⟩ := pendingSound_iff.1 hs.pending
  have hq := hp.queues h b hb
  have hpfree : p ∈ free := by
    have := hp.chain
    rw [hhead] at this
    cases free with
    | nil => cases this
    | cons p' rest => cases this.1; simp
  obtain ⟨hplt, hpo⟩ := (hp.mem p).1 hpfree
  obtain ⟨k, hk⟩ : ∃ k, s.pkts[p]? = some k := ⟨_, List.getElem?_eq_getElem hplt⟩
  obtain ⟨u, hpop, hw⟩ := State.popPfree_write hhead hk (extendPacket a)
  have htail : b.phead ≠ none → ∃ q kq, b.ptail = some q ∧ (s.pkts.set p (extendPacket a))[q]? = some kq := by
    intro hne
    have hqne : queue h ≠ [] := fun h => hne (hq.chain.eq_nil_iff.2 h)
    obtain ⟨z, hz⟩ : ∃ z, (queue h).getLast? = some z := ⟨_, List.getLast?_eq_some_getLast hqne⟩
    have hzm := (hq.mem z).1 (List.mem_of_getLast? hz)
    exact ⟨z, _, hq.tail.trans hz, List.getElem?_eq_getElem (by rw [List.length_set]; exact hzm.1)⟩
  have hptail : ∀ {j}, b.ptail = some j → b.phead ≠ none ∧ j ≠ p := fun {j} hj => by
    refine ⟨fun hnone => by simp [hq.tail_of_head hnone] at hj, ?_⟩
    rintro rfl
    simp [hp.owner_eq hb (List.mem_of_getLast? (hq.tail.symm.trans hj))] at hpo
  obtain ⟨v, hv, hveq, hvk⟩ := State.enqueue_of_tail (p := p) (s := u.updPkt p fun _ => extendPacket a) (by rw [hw]; exact hb)
    (by rw [hw]; exact htail)
  have hwr : Writes [.queue, .packets, .freeLists] s v :=
    ((State.popPfree_writes (by simp) hpop).trans (Writes.updPkt (by simp) _ _)).trans (State.enqueue_writes h0 (by simp) hv)
  rw [hw] at hveq hvk
  have hbufs : v.bufs = s.bufs.modify h (queuedBuffer b p) := by rw [hveq]
  have hd : v.bufs[h]? = some (queuedBuffer b p b) := by simp [hbufs, hb]
  obtain ⟨hcfg, -, -, -, -, hblen, hklen⟩ := hwr.constants
  refine ⟨u, v, hpop, hv, hs.step hwr (by simp) (by simp) (by rw [hveq]) ?_ ?_ ?_ fun j hj => proj_of_modify_ne hbufs hj, hd⟩
  · exact hs.ring.imp fun _ hr => hr.congr (proj_of_modify hbufs fun _ _ => rfl)
  · exact hs.freeList.imp fun _ hf => hf.congr hblen (proj_of_modify hbufs fun _ _ => rfl) (by rw [hveq])
  · refine hp.enqueue hb hhead hk hblen hklen (fun j hj => ?_) (kp := extendPacket a) ?_ rfl
      (extendPacket_sound hs.side.configuration he) (by rw [hveq]) hcfg (fun j hj => proj_of_modify_ne hbufs hj) hd rfl
    · rw [hvk, List.getElem?_set_ne (Ne.symm hj)]
      exact congrArg (Option.map · _) (funext fun c => if_congr ⟨fun h => h.2, fun h => ⟨(hptail h).1, h⟩⟩ rfl rfl)
    · rw [hvk, List.getElem?_set_self hplt]
      simp only [Option.map_some, Option.some.injEq, ite_eq_right_iff, and_imp]
      exact fun _ h => absurd rfl (hptail h).2

/-- EXTEND answers (R143). -/
theorem SoundAt.extend (hs : SoundAt n s) (h : Nat) (a : ExtendArgs) : Answers n (s.extend h a) := by
  cases hacc : s.acceptsHandle h with
  | false => exact ⟨_, State.extend_eq_ok.2 (.inl ⟨hacc, rfl⟩), hs⟩
  | true =>
    cases henc : encodePacket s.cfg a.d a.pre.toNat a.post.toNat with
    | badArg => exact ⟨_, State.extend_eq_ok.2 (.inr (.inl ⟨hacc, henc, rfl⟩)), hs⟩
    | overflow => exact ⟨_, State.extend_eq_ok.2 (.inr (.inr (.inl ⟨hacc, henc, rfl⟩))), hs.withOutputs _ _ _ _ _ _⟩
    | ok x =>
      have hok := Encoded.isOk_iff.2 ⟨x, henc⟩
      cases hhead : s.pool.pfreeHead with
      | none =>
        exact ⟨_, State.extend_eq_ok.2 (.inr (.inr (.inr (.inl ⟨hacc, hok, hhead, rfl⟩)))), hs.withOutputs _ _ _ _ _ _⟩
      | some p =>
        obtain ⟨b, hb, h0, ho, hcase⟩ := hs.accepted hacc
        have hlive : b.state.live = true := by
          rcases hcase with ⟨hlive, -⟩ | ⟨hst, -⟩
          · exact hlive
          · rw [hst]; rfl
        obtain ⟨u, v, hpop, hv, hsv, hvb⟩ := (hs.soundBut h).enqueue hb h0 hhead hok
        obtain ⟨hsw, hwb⟩ := hsv.updBuf (gs := [.bufState, .reply]) (f := fun c =>
            { c with replyWhen := a.rw, replyToken := a.token, state := if b.state = .run then .reload else b.state }) hvb
          (.head (.extended (by simp)) (.single (.reply a.rw a.token (by simp)))) (by simp) (by simp) rfl
          (Prod.ext rfl (decide_eq_decide.2 (extended_eq_empty _))) rfl
        refine ⟨_, State.extend_eq_ok.2 (.inr (.inr (.inr (.inr
            ⟨hacc, hok, p, u, v, _, hpop, hv, hvb, BufState.code_lt_of_live hlive, rfl⟩)))),
          hsw.soundAt fun c hc _ => ?_⟩
        cases hwb.symm.trans hc
        rcases hcase with ⟨-, hl⟩ | ⟨hst, hl⟩
        · exact .inr (.inl ⟨by simpa [queuedBuffer] using hlive, hl⟩)
        · exact .inr (.inr ⟨by simp [hst], hl, ho⟩)

/-! COMPLETE. -/

/-- Closing a buffer, and the signal with it (R148, R150). -/
theorem SoundAt.releaseIfLoad (hs : SoundAt n s) (st : BufState) : SoundAt n (s.releaseIfLoad st) := by
  unfold State.releaseIfLoad
  split
  · exact hs.withOutputs _ _ _ _ _ _
  · exact hs

theorem SoundAt.completeReused (hs : SoundAt n s) {b : Buffer} (hb : s.bufs[h]? = some b) (hlive : b.state.live = true)
    (hl : b.linked = true) : Answers n (s.completeReused h) := by
  obtain ⟨hst, htb⟩ := (hs.soundBut h).updBuf (gs := [.isOpen]) (f := fun b => { b with isOpen := false }) hb
    (.single (.closed (by simp))) (by simp) (by simp) rfl rfl rfl
  refine ⟨_, State.completeReused_eq_ok.2 ⟨b, hb, hlive, rfl⟩, SoundAt.releaseIfLoad (hst.soundAt fun c hc _ => ?_) _⟩
  cases htb.symm.trans hc
  exact .inr (.inl ⟨hlive, hl⟩)

theorem SoundAt.completeNew (hs : SoundAt n s) {b : Buffer} (hb : s.bufs[h]? = some b) (hst : b.state = .load)
    (hl : b.linked = false) : Answers n (s.completeNew h) := by
  have hsb := hs.soundBut h
  cases hhead : b.phead with
  | none =>
    obtain ⟨hsu, hub⟩ := hsb.pushFree (f := fun b => { b with state := .empty, isOpen := false }) hb hst
      (.head (.freed hst (by simp)) (.single (.closed (by simp)))) rfl rfl rfl
    refine ⟨_, State.completeNew_eq_ok.2 ⟨b, hb, hst, .inl ⟨hhead, rfl⟩⟩, hsu.soundAt fun c hc _ => ?_⟩
    cases hub.symm.trans hc
    exact .inl ⟨rfl, hl, rfl, hhead⟩
  | some p =>
    obtain ⟨u, d, hu, hsu, heng, hd, hdst, hdring, -, -⟩ := hsb.loadHead hb hst hhead
    have hdl : d.linked = false := by
      simp only [Buffer.ringView, Prod.mk.injEq] at hdring
      rw [hdring.2.2, hl]
    have hcur : u.eng.cursor ≠ h := heng ▸ hsb.side.cursor_ne hb (by rw [hst]; rfl)
    obtain ⟨v, e, hv, hsv, hve, hel, hest⟩ := hsu.linkAfter hd hdl hcur
    obtain ⟨hsw, hwb⟩ := hsv.updBuf (gs := [.isOpen]) (f := fun b => { b with isOpen := false }) hve
      (.single (.closed (by simp))) (by simp) (by simp) rfl rfl rfl
    refine ⟨_, State.completeNew_eq_ok.2 ⟨b, hb, hst, .inr ⟨by rw [hhead]; nofun, u, v, hu, hv, rfl⟩⟩,
      hsw.soundAt fun c hc _ => ?_⟩
    cases hwb.symm.trans hc
    exact .inr (.inl ⟨by show e.state.live = true; rw [hest, hdst]; rfl, hel⟩)

/-- COMPLETE answers (R146). -/
theorem SoundAt.complete (hs : SoundAt n s) (h : Nat) : Answers n (s.complete h) := by
  cases hacc : s.acceptsHandle h with
  | false => exact ⟨_, State.complete_eq_ok.2 (.inl ⟨hacc, rfl⟩), hs⟩
  | true =>
    obtain ⟨b, hb, -, -, ⟨hlive, hl⟩ | ⟨hst, hl⟩⟩ := hs.accepted hacc
    · obtain ⟨r, hr, hsr⟩ := hs.completeReused hb hlive hl
      exact ⟨r, State.complete_eq_ok.2 (.inr ⟨hacc, b, hb, .inl ⟨hl, hr⟩⟩), hsr⟩
    · obtain ⟨r, hr, hsr⟩ := hs.completeNew hb hst hl
      exact ⟨r, State.complete_eq_ok.2 (.inr ⟨hacc, b, hb, .inr ⟨hl, hr⟩⟩), hsr⟩

/-! CANCEL. -/

/-- CANCEL answers (R149, R150). -/
theorem SoundAt.cancel (hs : SoundAt n s) (h : Nat) : Answers n (s.cancel h) := by
  cases hacc : s.acceptsHandle h with
  | false => exact ⟨_, State.cancel_eq_ok.2 (.inl ⟨hacc, rfl⟩), hs⟩
  | true =>
    obtain ⟨b, hb, -, -, hcase⟩ := hs.accepted hacc
    obtain ⟨u, hu, hsu, hub⟩ := (hs.soundBut h).releaseQueue hb
    obtain ⟨hsv, hvb⟩ := hsu.updBuf (gs := [.reply, .isOpen]) (f := fun b => { b with replyWhen := .never, isOpen := false }) hub
      (.head (.closed (by simp)) (.single (.reply .never _ (by simp)))) (by simp) (by simp) rfl rfl rfl
    rcases hcase with ⟨hlive, hl⟩ | ⟨hst, hl⟩
    · refine ⟨_, State.cancel_eq_ok.2 (.inr ⟨hacc, u, _, hu, hvb, .inl ⟨hl, hlive, rfl⟩⟩),
        SoundAt.releaseIfLoad (hsv.soundAt fun c hc _ => ?_) _⟩
      cases hvb.symm.trans hc
      exact .inr (.inl ⟨hlive, hl⟩)
    · obtain ⟨hsw, hwb⟩ := hsv.pushFree (f := fun b => { b with state := .empty }) hvb hst (.single (.freed hst (by simp))) rfl rfl rfl
      refine ⟨_, State.cancel_eq_ok.2 (.inr ⟨hacc, u, _, hu, hvb, .inr ⟨hl, hst, rfl⟩⟩), hsw.soundAt fun c hc _ => ?_⟩
      cases hwb.symm.trans hc
      exact .inl ⟨rfl, hl, rfl, rfl⟩

/-! SUBMIT. -/

/-- SUBMIT answers, by the commands it is made of; its roll-back leaves the state before it (R190, R191). -/
theorem SoundAt.submit (hs : SoundAt n s) (a : SubmitArgs) : Answers n (s.submit a) := by
  cases hr : addressInRange a.pol a.addr with
  | false => exact ⟨_, State.submit_eq_ok.2 (.inl ⟨hr, rfl⟩), hs⟩
  | true =>
    cases henc : encodePacket s.cfg a.d a.pre.toNat a.post.toNat with
    | badArg => exact ⟨_, State.submit_eq_ok.2 (.inr (.inl ⟨hr, henc, rfl⟩)), hs⟩
    | overflow => exact ⟨_, State.submit_eq_ok.2 (.inr (.inr (.inl ⟨hr, henc, rfl⟩))), hs.withOutputs _ _ _ _ _ _⟩
    | ok x =>
      have hok := Encoded.isOk_iff.2 ⟨x, henc⟩
      obtain ⟨q, hq, hsq⟩ := hs.acquire a.pol a.addr a.action a.ow
      cases hh : q.handle with
      | none => exact ⟨_, State.submit_eq_ok.2 (.inr (.inr (.inr ⟨hr, hok, q, hq, .inl ⟨hh, rfl⟩⟩))), hsq⟩
      | some h =>
        obtain ⟨e, he, hse⟩ := hsq.extend h (submitExtendArgs a h)
        have hinto : Answers n (s.submitInto a h q.state) := by
          by_cases hst : e.status = .ok
          · obtain ⟨c, hc, hsc⟩ := hse.complete h
            exact ⟨_, State.submitInto_eq_ok.2 ⟨e, he, .inr ⟨hst, c, hc, rfl⟩⟩, hsc⟩
          · exact ⟨_, State.submitInto_eq_ok.2 ⟨e, he, .inl ⟨hst, rfl⟩⟩, hs.withOutputs _ _ _ _ _ _⟩
        obtain ⟨r, hinto, hsr⟩ := hinto
        exact ⟨r, State.submit_eq_ok.2 (.inr (.inr (.inr ⟨hr, hok, q, hq, .inr ⟨h, hh, hinto⟩⟩))), hsr⟩

end Sys2Proof.Machine
end

section
/-! PROOFS. TICK and MGR_INVOKE answer in a sound state and leave a sound one (R44, R215). -/

namespace Sys2Proof.Machine

variable {s t : State} {n h : Nat}

/-! TICK. -/

/-- The parts of soundness that do not read the Timing Engine's registers. -/
structure PoolSide (s : State) : Prop where
  configuration : configValid s.cfg = true
  arenas : Memory.wf s = true
  running : s.halted = false
  noFatal : s.fatalCode = 0
  fixedBuffer : FixedBufferSound s
  arrays : ArraysSound s
  ring : ∃ full, RingOf s full
  freeList : ∃ free, FreeListOf s free
  poolBuffers : ∀ (h : Nat) (b : Buffer), s.bufs[h]? = some b → h ≠ 0 → PoolBufferSound b
  pending : PendingSound s
  scan : s.scanPos.toNat ≤ s.cfg.numBuffers - 1

/-- The parts of soundness that say where the engine stands: in the array of a radiable buffer. -/
def Playing (s : State) : Prop := CursorRadiable s ∧ PositionSound s

theorem Sound.poolSide (hs : Sound s) : PoolSide s := by
  obtain ⟨b, hb, -⟩ := hs.fixedBuffer
  exact ⟨hs.configuration, hs.arenas, hs.running, hs.noFatal, hs.fixedBuffer, hs.arrays, (ringSound_iff hb).1 hs.ring,
    freeListSound_iff.1 hs.freeList, hs.poolBuffers, hs.pending, hs.scan⟩

theorem PoolSide.sound (hs : PoolSide s) (hp : Playing s) (he : EngineSound s) : Sound s := by
  obtain ⟨b, hb, -⟩ := hs.fixedBuffer
  exact ⟨hs.configuration, hs.arenas, hs.running, hs.noFatal, hs.fixedBuffer, hs.arrays, hp.1, he, hp.2, (ringSound_iff hb).2 hs.ring,
    freeListSound_iff.2 hs.freeList, hs.poolBuffers, hs.pending, hs.scan⟩

/-- What TICK writes beside buffer records is no part of the pool's side. -/
theorem PoolSide.withEngine (hs : PoolSide s) (e : Engine) (la : Bool) (ps : Word) :
    PoolSide { s with eng := e, latch := la, packetsSent := ps } := by
  obtain ⟨full, hr⟩ := hs.ring
  obtain ⟨free, hf⟩ := hs.freeList
  exact ⟨hs.configuration, hs.arenas, hs.running, hs.noFatal, hs.fixedBuffer, hs.arrays, ⟨full, hr.congr fun _ => rfl⟩,
    ⟨free, hf.congr rfl (fun _ => rfl) rfl⟩, hs.poolBuffers, hs.pending, hs.scan⟩

/-- A linked pool buffer is live (R44). -/
theorem PoolSide.live_of_linked (hs : PoolSide s) {b : Buffer} (hb : s.bufs[h]? = some b) (h0 : h ≠ 0) (hl : b.linked = true) :
    b.state.live = true := by
  rcases hs.poolBuffers h b hb h0 with ⟨-, hl', -⟩ | ⟨hlive, -⟩ | ⟨-, hl', -⟩
  · rw [hl] at hl'; cases hl'
  · exact hlive
  · rw [hl] at hl'; cases hl'

/-- A radiable pool buffer is live and on the ring (R44). -/
theorem PoolSide.live_of_radiable (hs : PoolSide s) {b : Buffer} (hb : s.bufs[h]? = some b) (h0 : h ≠ 0) (hr : b.state.radiable = true) :
    b.state.live = true ∧ b.linked = true := by
  rcases hs.poolBuffers h b hb h0 with ⟨he, -⟩ | hl | ⟨he, -⟩
  · rw [he] at hr; cases hr
  · exact hl
  · rw [he] at hr; cases hr

/-- The end of a traversal keeps the pool's side (R162). -/
theorem PoolSide.traversed (hs : PoolSide s) {b : Buffer} (hb : s.bufs[h]? = some b) (hrad : b.state.radiable = true) :
    PoolSide (s.updBuf h afterTraversal) := by
  have hwr : Writes [.bufState, .repeatCount, .engine] s (s.updBuf h afterTraversal) :=
    Writes.updBuf fun _ _ => .played (by simp)
  obtain ⟨-, -, -, -, -, hblen, hklen⟩ := hwr.constants
  obtain ⟨owner, free, queue, hp⟩ := pendingSound_iff.1 hs.pending
  have hfields : ∀ {α : Type} {π : Buffer → α}, (∀ (c : Buffer) st r, π { c with state := st, repeatCount := r } = π c) →
      ∀ j, (s.updBuf h afterTraversal).proj π j = s.proj π j := fun hπ =>
    proj_of_modify rfl fun c _ => by rw [afterTraversal_eq, hπ]
  have hlive : b.state.live = true → (afterTraversal b).state.live = true := fun hl => by
    rcases afterTraversal_state b with he | ⟨-, he⟩
    · rwa [he]
    · rw [he]; rfl
  have hempty : ∀ j, (s.updBuf h afterTraversal).proj Buffer.freeView j = s.proj Buffer.freeView j :=
    proj_of_modify rfl fun c hc => by
      cases hb.symm.trans hc
      rw [afterTraversal_eq]
      refine Prod.ext rfl (decide_eq_decide.2 ?_)
      rcases afterTraversal_state b with he | ⟨-, he⟩
      · rw [he]
      · show (afterTraversal b).state = .empty ↔ _
        rw [he]
        exact ⟨nofun, fun h => by rw [h] at hrad; cases hrad⟩
  refine ⟨hs.configuration, (SameArenas.wf ⟨hblen, hklen, rfl⟩).trans hs.arenas, hs.running, hs.noFatal, hwr.fixedBuffer hs.fixedBuffer,
    hwr.arrays hs.arrays, hs.ring.imp fun _ hr => hr.congr (hfields fun _ _ _ => rfl),
    hs.freeList.imp fun _ hf => hf.congr hblen hempty rfl, fun j d hd h0 => ?_,
    pendingSound_iff.2 ⟨owner, free, queue, hp.congr (hfields fun _ _ _ => rfl) rfl rfl rfl⟩, hs.scan⟩
  rw [State.updBuf_bufs, State.bufs_updBuf_getElem?] at hd
  split at hd
  next hj =>
    subst hj
    rw [hb] at hd
    cases hd
    obtain ⟨hl, hlk⟩ := hs.live_of_radiable hb h0 hrad
    exact .inr (.inl ⟨hlive hl, by rw [afterTraversal_eq]; exact hlk⟩)
  next => exact hs.poolBuffers j d hd h0

/-- NEXT_RADIABLE's walk along live buffers to the fixed one answers (R163). -/
theorem State.radiableFrom_of_live {m : Nat} {l : Option Nat} {z : List Nat} {b : Buffer} (hc : Chain s.nextOf (some 0) l z)
    (hlive : ∀ j ∈ z, ∃ c, s.bufs[j]? = some c ∧ c.state.live = true) (hb : s.bufs[0]? = some b) (hf : b.state = .fixed)
    (hm : z.length < m) : ∃ n c, s.radiableFrom m l = .ok n ∧ s.bufs[n]? = some c ∧ c.state.radiable = true := by
  induction z generalizing m l with
  | nil =>
    have hr : b.state.radiable = true := by rw [hf]; rfl
    exact ⟨0, b, State.radiableFrom_of_chain hc (by simp) hb hr hm, hb, hr⟩
  | cons j z ih =>
    obtain ⟨rfl, hc⟩ := hc
    obtain ⟨m, rfl⟩ : ∃ k, m = k + 1 := ⟨m - 1, by simp at hm; omega⟩
    obtain ⟨c, hcj, hcl⟩ := hlive j (by simp)
    by_cases hr : c.state.radiable = true
    · exact ⟨j, c, State.radiableFrom_of_chain (passed := []) rfl (by simp) hcj hr (by simp), hcj, hr⟩
    · have hst : c.state = .load := by
        revert hcl hr
        cases c.state <;> simp [BufState.live, BufState.radiable]
      rw [State.nextOf_of_buf hcj] at hc
      obtain ⟨n, d, hn, hd⟩ := ih hc (fun i hi => hlive i (by simp [hi])) (by simpa using hm)
      refine ⟨n, d, ?_, hd⟩
      simp [State.radiableFrom, handleOf, State.buf, hcj, hst, hn, bind, Except.bind]

/-- From a buffer on the ring NEXT_RADIABLE answers (R163). -/
theorem PoolSide.nextRadiable (hs : PoolSide s) {b : Buffer} (hb : s.bufs[h]? = some b) (hl : h ≠ 0 → b.linked = true) :
    ∃ n c, s.nextRadiable h = .ok n ∧ s.bufs[n]? = some c ∧ c.state.radiable = true := by
  obtain ⟨full, hr⟩ := hs.ring
  have hmem : h ∈ full := by
    by_cases h0 : h = 0
    · rw [h0]; exact List.mem_of_mem_head? hr.head
    · exact (hr.linked h b hb).1 (hl h0)
  obtain ⟨a, z, rfl⟩ := List.append_of_mem hmem
  obtain ⟨_, -, -, hz⟩ := Chain.append.1 hr.chain
  have hzlive : ∀ j ∈ z, ∃ c, s.bufs[j]? = some c ∧ c.state.live = true := by
    intro j hj
    obtain ⟨c, hc, hlk⟩ := hr.buffer (h := j) (by simp [hj])
    refine ⟨c, hc, hs.live_of_linked hc ?_ hlk⟩
    rintro rfl
    have hnd := hr.nodup
    have hhead := hr.head
    cases a with
    | nil => cases hhead; exact (List.nodup_cons.1 hnd).1 hj
    | cons i a => cases hhead; exact (List.nodup_cons.1 hnd).1 (by simp [hj])
  have hlen : z.length < s.cfg.numBuffers := by
    have hle := length_le_of_nodup hr.nodup fun j hj => lt_length_of_getElem? (hr.buffer hj).choose_spec.1
    have hwf := hs.arenas
    simp only [Memory.wf, Bool.and_eq_true, beq_iff_eq] at hwf
    simp only [List.length_append, List.length_cons] at hle
    omega
  obtain ⟨b₀, hb₀, hfix, -⟩ := hs.fixedBuffer
  rw [State.nextOf_of_buf hb] at hz
  obtain ⟨n, c, hn, hc⟩ := State.radiableFrom_of_live hz hzlive hb₀ hfix hlen
  exact ⟨n, c, by rw [State.nextRadiable, (State.buf_eq_ok).2 hb]; exact hn, hc⟩

/-- At a terminator the engine moves to bit 0 of a radiable buffer (R161 to R163). -/
theorem PoolSide.endTraversal (hs : PoolSide s) (hc : CursorRadiable s) :
    ∃ t, s.endTraversal = .ok t ∧ PoolSide t ∧ Playing t ∧ t.openCount = s.openCount := by
  obtain ⟨b, hb, hrad⟩ := hc
  obtain ⟨u, hu⟩ : ∃ u, s.endOfArray s.eng.cursor = .ok u := ⟨_, State.endOfArray_eq_ok.2 ⟨b, hb, hrad, rfl⟩⟩
  have huv := hu
  obtain ⟨b', hb', -, rfl⟩ := State.endOfArray_eq_ok.1 hu
  cases hb.symm.trans hb'
  have hv := (hs.traversed hb hrad).withEngine s.eng (s.latch || decide ((afterTraversal b).state = .load)) (s.packetsSent + 1)
  have hbc : (s.updBuf s.eng.cursor afterTraversal).bufs[s.eng.cursor]? = some (afterTraversal b) := by simp [hb]
  obtain ⟨n, c, hn, hcn, hcr⟩ := hv.nextRadiable hbc fun h0 => by
    rw [afterTraversal_eq]
    exact (hs.live_of_radiable hb h0 hrad).2
  obtain ⟨e, he, hne⟩ := ArrayOk.first (hv.arrays n c hcn hcr)
  refine ⟨_, State.endTraversal_eq_ok.2 ⟨_, n, e, _, huv, hn, State.entry_of_some hcn he, hne, rfl⟩, hv.withEngine _ _ _,
    ⟨⟨c, hcn, hcr⟩, c, e, hcn, he, ?_, nofun⟩, rfl⟩
  show e - 1 < e
  omega

/-- NEXT_BIT answers and leaves the engine in an array (R161). -/
theorem PoolSide.nextBit (hs : PoolSide s) (hp : Playing s) :
    ∃ t, s.nextBit = .ok t ∧ PoolSide t ∧ Playing t ∧ t.openCount = s.openCount := by
  obtain ⟨⟨b, hb, hrad⟩, b', e, hb', he, hlt, hbefore⟩ := hp
  cases hb.symm.trans hb'
  by_cases hl : 0 < s.eng.left
  · refine ⟨_, State.nextBit_eq_ok.2 (.inl ⟨hl, rfl⟩), hs.withEngine _ _ _, ⟨⟨b, hb, hrad⟩, b, e, hb, he, ?_, hbefore⟩, rfl⟩
    show s.eng.left - 1 < e
    omega
  · have hl0 : s.eng.left = 0 := by omega
    have hne : e ≠ 0 := by omega
    obtain ⟨hmax, e', he'⟩ := ArrayOk.next (hs.arrays _ b hb hrad) he hne hbefore
    have hentry := State.entry_of_some hb he'
    by_cases he0 : e' = 0
    · subst he0
      obtain ⟨t, ht, hst, hpt, hct⟩ := PoolSide.endTraversal (s := s.setEng { s.eng with idx := s.eng.idx + 1 })
        (hs.withEngine _ _ _) ⟨b, hb, hrad⟩
      exact ⟨t, State.nextBit_eq_ok.2 (.inr ⟨hl0, hmax, 0, s, hentry, .inr ⟨rfl, ht⟩⟩), hst, hpt, hct⟩
    · refine ⟨_, State.nextBit_eq_ok.2 (.inr ⟨hl0, hmax, e', s, hentry, .inl ⟨he0, rfl⟩⟩), hs.withEngine _ _ _,
        ⟨⟨b, hb, hrad⟩, b, e', hb, he', ?_, fun j hj => ?_⟩, rfl⟩
      · show e' - 1 < e'
        omega
      · rcases Nat.lt_succ_iff_lt_or_eq.1 hj with hj | rfl
        · exact hbefore j hj
        · rw [he]
          exact fun h => hne (Option.some.inj h)

/-- TICK answers in a sound state (R160). -/
theorem SoundAt.tickBody (hs : SoundAt n s) : ∃ t, tickBody s = .ok t ∧ SoundAt n t := by
  obtain ⟨hs, rfl⟩ := hs
  have htoggle : PoolSide s.toggleTrack := hs.poolSide.withEngine _ _ _
  have hplay : Playing s.toggleTrack := ⟨hs.cursor, hs.position⟩
  suffices hbody : ∃ t, Machine.tickBody s = .ok t ∧ PoolSide t ∧ Playing t ∧ t.openCount = s.openCount by
    obtain ⟨t, ht, hst, hpt, hct⟩ := hbody
    exact ⟨t, ht, hst.sound hpt (tickBody_engineSound hs.engine ht), hct⟩
  rcases EngineSound.half hs.engine with h1 | h2
  · obtain ⟨t, ht, hst, hpt, hct⟩ := htoggle.nextBit hplay
    exact ⟨_, tickBody_eq_ok.2 ⟨0, 0, State.countdown_of_one h1, State.afterCountdown_eq_ok.2 (.inl ⟨rfl, t, ht, rfl⟩)⟩,
      hst.withEngine _ _ _, hpt, hct⟩
  · exact ⟨_, tickBody_eq_ok.2 ⟨1, 0, State.countdown_of_two h2, State.afterCountdown_eq_ok.2 (.inr ⟨by decide, rfl⟩)⟩,
      htoggle.withEngine _ _ _, hplay, rfl⟩

/-! MGR_INVOKE. -/

/-- The link from a buffer of the ring leads to the next one, or to buffer 0 (R29). -/
theorem RingOf.next {a z : List Nat} (hr : RingOf s (a ++ h :: z)) : s.nextOf h = some (z.headD 0) := by
  obtain ⟨_, -, -, hz⟩ := Chain.append.1 hr.chain
  cases z with
  | nil => exact hz
  | cons j z => exact hz.1

/-- SERVICE of a closed buffer in `LOAD` answers: it is loaded and stays on the ring, or it is retired (R182). -/
theorem SoundAt.service (hs : SoundAt n s) {b : Buffer} {a z : List Nat} (hr : RingOf s (a ++ h :: z)) (hb : s.bufs[h]? = some b)
    (hst : b.state = .load) (hc : b.isOpen = false) :
    ∃ t, s.service h = .ok t ∧ SoundAt n t ∧ (RingOf t (a ++ h :: z) ∨ RingOf t (a ++ z)) := by
  have hsb := hs.soundBut h
  have hl : b.linked = true := (hr.linked h b hb).2 (by simp)
  cases hhead : b.phead with
  | some p =>
    obtain ⟨t, d, ht, hsu, -, hd, hdst, hdring, -, hring⟩ := hsb.loadHead hb hst hhead
    have hdl : d.linked = true := by
      simp only [Buffer.ringView, Prod.mk.injEq] at hdring
      rw [hdring.2.2, hl]
    refine ⟨t, State.service_eq_ok.2 ⟨b, hb, .inl ⟨by rw [hhead]; nofun, ht⟩⟩, hsu.soundAt fun c hc _ => ?_, .inl (hring _ hr)⟩
    cases hd.symm.trans hc
    exact .inr (.inl ⟨by rw [hdst]; rfl, hdl⟩)
  | none =>
    obtain ⟨u, d, hu, hsu, hru, hd, hdl, hdst, hdo, hdh⟩ := hsb.unlink hr hb hst
    obtain ⟨hsv, hvb⟩ := hsu.pushFree (f := fun b => { b with state := .empty }) hd hdst (.single (.freed hdst (by simp))) rfl rfl rfl
    have hvring : RingOf ((u.updBuf h fun b => { b with state := .empty }).pushFree h) (a ++ z) :=
      hru.congr fun j => (State.proj_pushFree fun _ _ => rfl).trans (State.proj_updBuf fun _ => rfl)
    have hpool : SoundAt n ((u.updBuf h fun b => { b with state := .empty }).pushFree h) := hsv.soundAt fun c hc' _ => by
      cases hvb.symm.trans hc'
      exact .inl ⟨rfl, hdl, hdo.trans hc, hdh.trans hhead⟩
    have hhist : SoundAt n (((u.updBuf h fun b => { b with state := .empty }).pushFree h).setHistory
        (u.history ++ if b.replyWhen = .atEnd then [.reply b.replyToken] else [])) := hpool.withOutputs _ _ _ _ _ _
    obtain ⟨hsw, hwb⟩ := (hhist.soundBut h).updBuf (gs := [.reply]) (f := fun b => { b with replyWhen := .never }) hvb
      (.single (.reply .never _ (by simp))) (by simp) (by simp) rfl rfl rfl
    refine ⟨_, State.service_eq_ok.2 ⟨b, hb, .inr ⟨hhead, State.retire_eq_ok.2 ⟨b, u, hb, hu, rfl⟩⟩⟩,
      hsw.soundAt fun c hc' _ => ?_, .inr (hvring.congr fun j => State.proj_updBuf fun _ => rfl)⟩
    cases hwb.symm.trans hc'
    exact .inl ⟨rfl, hdl, hdo.trans hc, hdh.trans hhead⟩

/-- MGR_INVOKE's walk over the rest `z` of the ring answers, where `a` is left behind it (R180). -/
theorem SoundAt.drainFrom {m : Nat} {a z : List Nat} (hs : SoundAt n s) (hr : RingOf s (a ++ z)) (ha : a ≠ []) (hm : z.length ≤ m) :
    ∃ t, Machine.drainFrom m (some (z.headD 0)) s = .ok t ∧ SoundAt n t := by
  induction z generalizing m a s with
  | nil => exact ⟨s, drainFrom_zero m s, hs⟩
  | cons h z ih =>
    obtain ⟨m, rfl⟩ : ∃ k, m = k + 1 := ⟨m - 1, by simp at hm; omega⟩
    have hm : z.length ≤ m := by simpa using hm
    have h0 : h ≠ 0 := by
      rintro rfl
      obtain ⟨i, a, rfl⟩ := List.exists_cons_of_ne_nil ha
      obtain rfl : i = 0 := Option.some.inj hr.head
      exact (List.nodup_cons.1 hr.nodup).1 (by simp)
    obtain ⟨b, hb, hl⟩ := hr.buffer (h := h) (by simp)
    have hlive := hs.1.poolSide.live_of_linked hb h0 hl
    have hnext : b.next = some (z.headD 0) := State.nextOf_of_buf hb ▸ hr.next
    have hr' : RingOf s ((a ++ [h]) ++ z) := by rwa [List.append_assoc]
    obtain ⟨u, hu, hrest⟩ : ∃ u, s.attend h b = .ok u ∧ ∃ t, Machine.drainFrom m (some (z.headD 0)) u = .ok t ∧ SoundAt n t := by
      by_cases hserve : b.state = .load ∧ b.isOpen = false
      · obtain ⟨u, hu, hsu, hru | hru⟩ := hs.service hr hb hserve.1 hserve.2
        · refine ⟨u, State.attend_eq_ok.2 (.inl ⟨hserve.1, hserve.2, hu⟩), ih hsu (a := a ++ [h]) ?_ (by simp) hm⟩
          rwa [List.append_assoc]
        · exact ⟨u, State.attend_eq_ok.2 (.inl ⟨hserve.1, hserve.2, hu⟩), ih hsu hru ha hm⟩
      · exact ⟨s, State.attend_eq_ok.2 (.inr ⟨hserve, rfl⟩), ih hs hr' (by simp) hm⟩
    obtain ⟨t, ht, hst⟩ := hrest
    exact ⟨t, (drainFrom_cons h0).2 ⟨b, u, hb, hlive, hu, by rwa [hnext]⟩, hst⟩

/-- MGR_INVOKE answers in a sound state (R180). -/
theorem SoundAt.managerBody (hs : SoundAt n s) : ∃ t, managerBody s = .ok t ∧ SoundAt n t := by
  have hcons : SoundAt n s.consume := hs.withOutputs _ _ _ _ _ _
  obtain ⟨ring, ⟨-, -, hlen, -⟩, hr⟩ := hcons.ringIs
  obtain ⟨b, hb, -⟩ := hcons.1.fixedBuffer
  have hnext : b.next = some (ring.headD 0) := State.nextOf_of_buf hb ▸ RingOf.next (a := []) hr
  obtain ⟨t, ht, hst⟩ := hcons.drainFrom (a := [0]) hr (by simp) hlen
  exact ⟨t, Attempt.bind_eq_ok.2 ⟨b, State.buf_eq_ok.2 hb, by rw [hnext]; exact ht⟩, hst⟩

end Sys2Proof.Machine
end

section
/-! PROOFS. Every step in a sound state: it answers, leaves a sound state and reads no free value (R44, R215), and gives an identity no
second buffer but as R141 allows. -/

namespace Sys2Proof.Machine

variable {s t : State} {n : Nat}

/-! Queries. -/

theorem SoundAt.answer (hs : SoundAt n s) (st : Status) (l : List Byte) : SoundAt n (s.answer st l) := hs.withOutputs _ _ _ _ _ _

/-- FREE_BUFFERS counts the free list of a sound state (R192). -/
theorem SoundAt.freeFrom (hs : SoundAt n s) : ∃ c, s.freeFrom s.bufs.length [] s.pool.freeHead = .ok c := by
  obtain ⟨free, hc, hd, hb, -⟩ := hs.1.freeList
  exact ⟨_, State.freeFrom_of_list hc (fun _ => nofun) hd hb⟩

/-- SCAN_NEXT's position stays within the ring it reads (R41, R195). -/
theorem SoundAt.setScanPos (hs : SoundAt n s) {p : Byte} (hp : p.toNat ≤ s.cfg.numBuffers - 1) : SoundAt n (s.setScanPos p) :=
  ⟨{ hs.1 with scan := hp }, hs.2⟩

theorem SoundAt.scanNext (hs : SoundAt n s) : ∃ t, s.scanNext = .ok t ∧ SoundAt n t := by
  obtain ⟨ring, hring, -⟩ := hs.ringIs
  have hord := State.ringOrder_of_ringIs hring
  obtain ⟨-, -, hlen, hlive⟩ := hring
  have hin := State.liveIn_of_live hlive
  cases hp : ring[s.scanPos.toNat]? with
  | none =>
    exact ⟨s.answer .endOfScan [0, 0, 0, 0, 0], by simp [State.scanNext, hord, hin, hp, bind, Except.bind, pure, Except.pure],
      hs.answer _ _⟩
  | some h =>
    obtain ⟨b, hb, -⟩ := hlive h (List.mem_of_getElem? hp)
    have hlt := lt_length_of_getElem? hp
    have hnext : (s.scanPos + 1).toNat ≤ s.cfg.numBuffers - 1 := by
      rw [BitVec.toNat_add]
      exact (Nat.mod_le _ _).trans (by simpa using by omega)
    exact ⟨(s.setScanPos (s.scanPos + 1)).answer .ok (scanBytes b), by
        simp [State.scanNext, hord, hin, hp, State.buf, hb, bind, Except.bind, pure, Except.pure],
      (hs.setScanPos hnext).answer _ _⟩

/-! Every instruction. -/

/-- A command's body answers as its command does. -/
theorem Answers.body {x : Attempt Reply} (hx : Answers n x) (f : Reply → State) (hf : ∀ r, SoundAt n r.state → SoundAt n (f r)) :
    ∃ t, (do let r ← x; return f r) = .ok t ∧ SoundAt n t := by
  obtain ⟨r, rfl, hr⟩ := hx
  exact ⟨f r, rfl, hf r hr⟩

theorem SoundAt.statusOnly (r : Reply) (hr : SoundAt n r.state) : SoundAt n r.statusOnly := hr.answer _ _

theorem SoundAt.withHandle (r : Reply) (hr : SoundAt n r.state) : SoundAt n r.withHandle := hr.answer _ _

/-- The body of every step answers in a sound state, keeps it sound, and reads no free value (R215). -/
theorem SoundAt.bodyOf (hs : SoundAt n s) (i : Instr) : ∃ t, bodyOf i s = .ok t ∧ SoundAt n t := by
  cases i with
  | acquire a =>
    cases a with
    | malformed _ => exact ⟨_, rfl, hs.answer _ _⟩
    | ok a => exact (hs.acquire a.pol a.addr a.action a.ow).body _ SoundAt.withHandle
  | extend a =>
    cases a with
    | malformed _ => exact ⟨_, rfl, hs.answer _ _⟩
    | ok a => exact (hs.extend _ a).body _ SoundAt.statusOnly
  | complete a =>
    cases a with
    | malformed _ => exact ⟨_, rfl, hs.answer _ _⟩
    | ok h => exact (hs.complete h.toNat).body _ SoundAt.statusOnly
  | cancel a =>
    cases a with
    | malformed _ => exact ⟨_, rfl, hs.answer _ _⟩
    | ok h => exact (hs.cancel h.toNat).body _ SoundAt.statusOnly
  | submit a =>
    cases a with
    | malformed _ => exact ⟨_, rfl, hs.answer _ _⟩
    | ok a => exact (hs.submit a).body _ SoundAt.withHandle
  | freeBuffers a =>
    cases a with
    | malformed _ => exact ⟨_, rfl, hs.answer _ _⟩
    | ok _ =>
      obtain ⟨c, hc⟩ := hs.freeFrom
      exact ⟨_, Attempt.bind_eq_ok.2 ⟨c, hc, rfl⟩, hs.answer _ _⟩
  | packetsSent a =>
    cases a with
    | malformed _ => exact ⟨_, rfl, hs.answer _ _⟩
    | ok _ => exact ⟨_, rfl, hs.answer _ _⟩
  | resetScan a =>
    cases a with
    | malformed _ => exact ⟨_, rfl, hs.answer _ _⟩
    | ok _ => exact ⟨_, rfl, (hs.setScanPos (Nat.zero_le _)).answer _ _⟩
  | scanNext a =>
    cases a with
    | malformed _ => exact ⟨_, rfl, hs.answer _ _⟩
    | ok _ => exact hs.scanNext
  | tick => exact hs.tickBody
  | mgrInvoke => exact hs.managerBody
  | badOpcode _ => exact ⟨_, rfl, hs.answer _ _⟩

/-- What a step in a sound state did: no fatal fault, so its body answered. -/
theorem SoundAt.of_exec (hs : SoundAt n s) {i : Instr} (h : exec i s = .next t) : Machine.bodyOf i s.clearResult = .ok t ∧ SoundAt n t := by
  obtain ⟨u, hu, hsu⟩ := SoundAt.bodyOf (s := s.clearResult) (hs.withOutputs _ _ _ _ _ _) i
  obtain ⟨-, -, hb | ⟨c, hb, -⟩⟩ := exec_eq_next h
  · cases hu.symm.trans hb
    exact ⟨hu, hsu⟩
  · cases hu.symm.trans hb

/-- The reset event leaves a sound state (R235). -/
theorem resetEvent_sound (hc : configValid s.cfg = true) : Sound s.resetEvent :=
  have hs := resetWith_sound hc
  ⟨hs.configuration, hs.arenas, hs.running, hs.noFatal, hs.fixedBuffer, hs.arrays, hs.cursor, hs.engine, hs.position, hs.ring,
    hs.freeList, hs.poolBuffers, hs.pending, hs.scan⟩

/-- Every step keeps the invariants 1 to 6 of R44. -/
theorem step_keeps_sound (hs : Sound s) (h : step s = .next t) : Sound t := by
  refine step_keeps (fun s l m hs => ?_) (fun _ => resetEvent_sound) (fun i s t hs h => ?_) hs h
  · exact (SoundAt.withOutputs ⟨hs, rfl⟩ s.latch s.packetsSent s.history l m s.result).1
  · exact (SoundAt.of_exec ⟨hs, rfl⟩ h).2.1

/-! One buffer of an identity. -/

/-- The buffers of an identity after ACQUIRE has taken one: it, if the identity is the command's, and those before. -/
theorem targets_of_takenBuffer {h j : Nat} {d : Buffer} {p pol : Polarity} {a addr action : Word} {l : Option Nat}
    (hd : ((s.setFreeHead l).updBuf h (takenBuffer p a action)).bufs[j]? = some d) (ht : Targets d addr pol) :
    (j = h ∧ a = addr ∧ p = pol) ∨ s.bufs[j]? = some d := by
  rw [State.updBuf_bufs, State.bufs_updBuf_getElem?] at hd
  split at hd
  next hj =>
    obtain ⟨b, -, rfl⟩ := Option.map_eq_some_iff.1 hd
    exact .inl ⟨hj.symm, ht.2⟩
  next => exact .inr hd

/-- ACQUIRE's new buffer is the only one of its identity where there was none before (R140, R141). -/
theorem State.allocate_oneBufferFor {p pol : Polarity} {a addr action : Word} {r : Reply} (ho : OneBufferFor s addr pol)
    (hnone : a = addr → p = pol → ∀ (h : Nat) (b : Buffer), s.bufs[h]? = some b → ¬ Targets b addr pol)
    (hr : s.allocate p a action = .ok r) : OneBufferFor r.state addr pol := by
  obtain ⟨-, rfl⟩ | ⟨h, u, hu, -⟩ := State.allocate_eq_ok.1 hr
  · exact ho
  obtain ⟨hh, b, hb, he, -⟩ := State.popFree_eq_ok.1 hu
  cases (State.allocate_of_free hh hb he p a action).symm.trans hr
  intro i j c d hc hd tc td
  rcases targets_of_takenBuffer hc tc with ⟨rfl, ha, hp⟩ | hc' <;> rcases targets_of_takenBuffer hd td with ⟨rfl, ha', hp'⟩ | hd'
  · rfl
  · exact absurd td (hnone ha hp j d hd')
  · exact absurd tc (hnone ha' hp' i c hc')
  · exact ho i j c d hc' hd' tc td

/-- FIND_LIVE finds the buffer of an identity unless that buffer is under construction (R141). -/
theorem SoundAt.no_targets (hs : SoundAt n s) {addr : Word} {pol : Polarity} (hf : s.findLive addr pol = .ok none)
    (hu : ¬ UnderConstruction s addr pol) (h : Nat) (b : Buffer) (hb : s.bufs[h]? = some b) : ¬ Targets b addr pol := by
  obtain ⟨j, c, hj, -⟩ | ⟨-, hn⟩ := hs.findLive addr pol
  · cases hf.symm.trans hj
  intro ht
  cases hl : b.linked with
  | true => exact hn h b hb hl ht
  | false => exact hu ⟨h, b, hb, hl, ht⟩

theorem SoundAt.acquire_oneBufferFor (hs : SoundAt n s) {p pol : Polarity} {a addr action : Word} {ow : Bool} {r : Reply}
    (ho : OneBufferFor s addr pol) (hno : ¬ (a = addr ∧ p = pol ∧ (ow = false ∨ UnderConstruction s addr pol)))
    (hr : s.acquire p a action ow = .ok r) : OneBufferFor r.state addr pol := by
  obtain ⟨-, rfl⟩ | ⟨-, -, h, hf, hr⟩ | ⟨-, hf, hr⟩ := State.acquire_eq_ok.1 hr
  · exact ho
  · obtain ⟨ring, -, hf⟩ := State.findLive_eq_ok.1 hf
    obtain ⟨-, b, hb, hlive⟩ := State.findLiveIn_some hf
    exact (State.reuse_writes (List.Subset.refl _) hb hlive hr).oneBufferFor (by simp) ho
  · refine State.allocate_oneBufferFor ho (fun ha hp => ?_) hr
    subst ha hp
    obtain ⟨how, hu⟩ := not_or.1 fun h => hno ⟨rfl, rfl, h⟩
    exact hs.no_targets (hf (by simpa using how)) hu

theorem SoundAt.submit_oneBufferFor (hs : SoundAt n s) {pol : Polarity} {addr : Word} {a : SubmitArgs} {r : Reply}
    (ho : OneBufferFor s addr pol) (hno : ¬ (a.addr = addr ∧ a.pol = pol ∧ (a.ow = false ∨ UnderConstruction s addr pol)))
    (hr : s.submit a = .ok r) : OneBufferFor r.state addr pol := by
  obtain ⟨-, rfl⟩ | ⟨-, -, rfl⟩ | ⟨-, -, rfl⟩ | ⟨-, -, q, hq, hend⟩ := State.submit_eq_ok.1 hr
  · exact ho
  · exact ho
  · exact ho
  have hoq := hs.acquire_oneBufferFor ho hno hq
  obtain ⟨-, rfl⟩ | ⟨h, -, hinto⟩ := hend
  · exact hoq
  obtain ⟨x, hx, ⟨-, rfl⟩ | ⟨-, c, hc, rfl⟩⟩ := State.submitInto_eq_ok.1 hinto
  · exact ho
  · have hox := (State.extend_writes (List.Subset.refl _) hx).oneBufferFor (by simp) hoq
    exact (State.complete_writes (List.Subset.refl _) hc).oneBufferFor (by simp) hox

/-- Only ACQUIRE and SUBMIT give a buffer an identity (R46); no other body adds a buffer to one. -/
theorem SoundAt.bodyOf_oneBufferFor (hs : SoundAt n s) {i : Instr} {addr : Word} {pol : Polarity} (ho : OneBufferFor s addr pol)
    (hno : ¬ opensAnother i s addr pol) (ht : Machine.bodyOf i s = .ok t) : OneBufferFor t addr pol := by
  by_cases hid : .identity ∈ writes i
  · cases i with
    | acquire a =>
      cases a with
      | malformed _ => cases ht; exact ho
      | ok a =>
        obtain ⟨r, hr, ht⟩ := Attempt.bind_eq_ok.1 ht
        cases ht
        exact hs.acquire_oneBufferFor ho hno hr
    | submit a =>
      cases a with
      | malformed _ => cases ht; exact ho
      | ok a =>
        obtain ⟨r, hr, ht⟩ := Attempt.bind_eq_ok.1 ht
        cases ht
        exact hs.submit_oneBufferFor ho hno hr
    | _ => simp [writes] at hid
  · exact (bodyOf_writes (gs := .links :: writes i) (.inl (by simp)) (by simp) ht).oneBufferFor (by simpa using hid) ho

/-- Settles O18: every body answers in a sound state by the lists' own rules, so none faults; an identity gains a buffer only from ACQUIRE
and SUBMIT, which find the one there is unless it is under construction. -/
theorem soundnessIsKept : Obligations.SoundnessIsKept := by
  refine ⟨fun s t => step_keeps_sound, fun i s t addr pol hs h ho hno => ?_⟩
  obtain ⟨hb, -⟩ := SoundAt.of_exec ⟨hs, rfl⟩ h
  have hclear : SoundAt s.openCount s.clearResult := SoundAt.withOutputs ⟨hs, rfl⟩ _ _ _ _ _ _
  have hot : OneBufferFor t addr pol := hclear.bodyOf_oneBufferFor ho hno hb
  exact ⟨hot, hot.atMostOneLive⟩

/-- Settles O28: the footprint of the body, and in a sound state the count of free values that the body leaves. -/
theorem stepsWriteOnlyTheirGroups : Obligations.StepsWriteOnlyTheirGroups := by
  intro i s t g h hrun hempty hg
  obtain ⟨-, -, hb⟩ := exec_eq_next_running h hrun
  have hw : Writes (writes i) s.clearResult t := bodyOf_writes (.inr hempty) (List.Subset.refl _) hb
  obtain ⟨hcfg, -, -, hagenda, hsched, -, -⟩ := hw.constants
  have hsame : g.same s t := Writes.same (.head (.output (r := []) (n := s.openCount)) hw) hg
  exact ⟨hsame, hcfg, hagenda, hsched, fun hs => (SoundAt.of_exec ⟨hs, rfl⟩ h).2.2⟩

end Sys2Proof.Machine
end

section
/-! PROOFS. The memory of the block: the arenas and the configuration (R20, R60), the arrays being played (R73), and the check of a
handle before anything is looked at (R62). -/

namespace Sys2Proof.Machine

variable {gs : List Group} {s t : State}

/-! The arenas. -/

theorem Writes.sameArenas (hw : Writes gs s t) : SameArenas s t := by
  obtain ⟨hcfg, -, -, -, -, hbufs, hpkts⟩ := hw.constants
  exact ⟨hbufs, hpkts, hcfg⟩

/-- An instruction neither adds nor removes a record, a fatal fault's entry included. -/
theorem exec_sameArenas {i : Instr} (h : exec i s = .next t) : SameArenas s t := by
  obtain hw | ⟨c, rfl⟩ := exec_writes (gs := .links :: writes i) (.inl (by simp)) (by simp) h
  · exact hw.sameArenas
  · exact State.fatalEntry_arenas s.clearResult c

/-- Settles O20: reset makes one record per handle of the same configuration, and an instruction keeps the arenas' sizes. -/
theorem arenasAndConfigurationAreKept : Obligations.ArenasAndConfigurationAreKept := by
  intro s t hwf h
  obtain ⟨-, ⟨rest, -, rfl⟩ | ⟨i, l, n, h⟩⟩ := step_eq_next h
  · exact ⟨State.resetWith_wf s.cfg, rfl⟩
  · have hsame : SameArenas { s with agenda := l, schedCount := n } t := exec_sameArenas h
    exact ⟨hsame.wf.trans hwf, hsame.2.2⟩

/-! The arrays being played. -/

/-- The Timing Engine writes no array, and no other step writes the engine (R46). -/
theorem array_or_engine_not_written (i : Instr) : .array ∉ writes i ∨ .engine ∉ writes i := by
  cases i with
  | tick => exact .inl (by simp [writes])
  | _ => exact .inr (by simp [writes])

/-- Writes that do not reach both arrays and the engine keep the array of a buffer that may be played: LOAD_HEAD alone writes an
array, of a buffer in `LOAD` (R136), and END_OF_ARRAY alone takes a buffer that may be played to `LOAD` (R162). -/
theorem Writes.array_of_radiable (hw : Writes gs s t) (hg : .array ∉ gs ∨ .engine ∉ gs) {h : Nat} {b c : Buffer}
    (hb : s.bufs[h]? = some b) (hc : t.bufs[h]? = some c) (hr : b.state.radiable = true) : c.arr = b.arr := by
  obtain hg | hg := hg
  · obtain ⟨b', hb', harr⟩ := hw.buffer_rel (R := fun _ b d => d.arr = b.arr) (fun _ _ => rfl)
      (fun _ _ _ _ hab hbc => hbc.trans hab) (fun _ _ _ hbw => (hbw.sameIn hg).symm) hc
    cases hb.symm.trans hb'
    exact harr
  · obtain ⟨d, hd, -, harr⟩ := hw.radiable hg hb hr
    cases hc.symm.trans hd
    exact harr

/-- Settles O29: TICK writes no array, and every other step leaves a buffer that may be played out of `LOAD`, where alone an array is
written. -/
theorem arraysUnchangedWhilePlayed : Obligations.ArraysUnchangedWhilePlayed := by
  intro i s t h b c hstep hb hc hr
  obtain hw | ⟨_, rfl⟩ := exec_writes (gs := .links :: writes i) (.inl (by simp)) (by simp) hstep
  · exact hw.array_of_radiable (by simpa using array_or_engine_not_written i) hb hc hr
  · cases hb.symm.trans hc
    rfl

/-! Handles. -/

theorem State.acceptsHandle_eq_false {h : Nat} (hh : ¬ ∃ b, Accepts s h b) : s.acceptsHandle h = false :=
  Bool.eq_false_iff.2 (mt State.acceptsHandle_iff.1 hh)

/-- A handle command that rejects its handle answers `BAD_HANDLE`, code 5, and changes nothing else (R212). -/
theorem runStep_of_badHandle {x : State → Attempt Reply} (hs : s.halted = false)
    (hx : x s.clearResult = .ok (s.clearResult.rejected .badHandle)) :
    runStep s (fun u => do let r ← x u; return r.statusOnly) = .next { s with result := [5] } :=
  runStep_of_ok hs (Attempt.bind_eq_ok.2 ⟨_, hx, rfl⟩)

/-- Settles O40: all three commands look at the handle first. -/
theorem handlesAreChecked : Obligations.HandlesAreChecked := by
  intro s h hs hh
  have hfalse : s.clearResult.acceptsHandle h.toNat = false := State.acceptsHandle_eq_false hh
  refine ⟨?_, ?_, ?_⟩
  · rintro a rfl
    exact runStep_of_badHandle (x := fun u => u.extend a.h.toNat a) hs (State.extend_eq_ok.2 (.inl ⟨hfalse, rfl⟩))
  · exact runStep_of_badHandle (x := fun u => u.complete h.toNat) hs (State.complete_eq_ok.2 (.inl ⟨hfalse, rfl⟩))
  · exact runStep_of_badHandle (x := fun u => u.cancel h.toNat) hs (State.cancel_eq_ok.2 (.inl ⟨hfalse, rfl⟩))

end Sys2Proof.Machine
end

section
/-! PROOFS. The step labels and back (R90 to R106): the fields of a frame, then each host command's frame, then every label. -/

namespace Sys2Proof

/-! Fields of a frame. -/

@[simp] theorem loByte_u16 (lo hi : Byte) : loByte (u16 lo hi) = lo := by
  apply BitVec.eq_of_getLsbD_eq
  intro i hi
  simp [loByte, u16, hi]

@[simp] theorem hiByte_u16 (lo hi : Byte) : hiByte (u16 lo hi) = hi := by
  apply BitVec.eq_of_getLsbD_eq
  intro i hi
  have h16 : i < 16 ∧ 8 + i < 16 := by omega
  simp [hiByte, u16, hi, h16]

@[simp] theorem u16_loByte_hiByte (w : Word) : u16 (loByte w) (hiByte w) = w := by
  apply BitVec.eq_of_getLsbD_eq
  intro i hi
  by_cases h8 : i < 8
  · simp [loByte, hiByte, u16, hi, h8]
  · have hsub : i - 8 < 8 ∧ 8 + (i - 8) = i := by omega
    simp [loByte, hiByte, u16, hi, h8, hsub]

/-- A flags byte of an identity is its two fields, when its reserved bits are clear (R95, R99). -/
theorem identityFlags_of_clear : ∀ f : Byte, flagsReservedClear f = true → identityFlags (polarityOf f) (overwriteOf f) = f := by
  decide +kernel

theorem identityFlags_fields (pol : Polarity) (ow : Bool) : flagsReservedClear (identityFlags pol ow) = true ∧
    polarityOf (identityFlags pol ow) = pol ∧ overwriteOf (identityFlags pol ow) = ow := by
  cases pol <;> cases ow <;> decide

/-- A reply flags byte with its reserved bits clear has no policy, or is the code of the policy it has (R96, R99). -/
theorem replyPolicyOf_of_clear {f : Byte} (hf : flagsReservedClear f = true) :
    (replyCodeDefined f = false ∧ replyPolicyOf f = none) ∨
      ∃ rw, replyCodeDefined f = true ∧ replyPolicyOf f = some rw ∧ rw.code = f := by
  cases hr : replyPolicyOf f with
  | none => exact .inl ⟨by revert f; decide +kernel, rfl⟩
  | some rw => exact .inr ⟨rw, by revert f rw; decide +kernel⟩

theorem ReplyPolicy.code_fields (rw : ReplyPolicy) : flagsReservedClear rw.code = true ∧ replyPolicyOf rw.code = some rw := by
  cases rw <;> decide

/-- A byte counts the bytes of a command that fits its count (R96, R99). -/
theorem toNat_count {d : List Byte} (h : d.length ≤ 255) : (BitVec.ofNat 8 d.length).toNat = d.length := by
  rw [BitVec.toNat_ofNat, Nat.mod_eq_of_lt (by omega)]

/-! The frames of the host commands: what a frame that parses holds, and that no other frame parses. -/

/-- A frame table of R95 to R103, read in both directions: `fits` are the operands a frame can hold, `good` the frames that parse. -/
structure FrameTable {α : Type} (parse : List Byte → Args α) (bytes : α → List Byte) (fits : α → Prop) (good : List Byte → Bool) :
    Prop where
  parse_bytes : ∀ a, fits a → parse (bytes a) = .ok a
  parse_cases : ∀ t, (good t = false ∧ parse t = .malformed t) ∨ (good t = true ∧ ∃ a, parse t = .ok a ∧ fits a ∧ bytes a = t)

theorem extendFrameGood_cons (h pre post dur f k0 k1 n : Byte) (d : List Byte) :
    extendFrameGood (h :: pre :: post :: dur :: f :: k0 :: k1 :: n :: d) = true ↔
      d.length = n.toNat ∧ flagsReservedClear f = true ∧ replyCodeDefined f = true := by
  have hlen : (h :: pre :: post :: dur :: f :: k0 :: k1 :: n :: d).length = 8 + d.length := by simp only [List.length_cons]; omega
  simp [extendFrameGood, hlen, and_assoc]

theorem submitFrameGood_cons (f a0 a1 c0 c1 pre post dur g k0 k1 n : Byte) (d : List Byte) :
    submitFrameGood (f :: a0 :: a1 :: c0 :: c1 :: pre :: post :: dur :: g :: k0 :: k1 :: n :: d) = true ↔
      d.length = n.toNat ∧ flagsReservedClear f = true ∧ flagsReservedClear g = true ∧ replyCodeDefined g = true := by
  have hlen : (f :: a0 :: a1 :: c0 :: c1 :: pre :: post :: dur :: g :: k0 :: k1 :: n :: d).length = 12 + d.length := by
    simp only [List.length_cons]; omega
  simp [submitFrameGood, hlen, and_assoc]

theorem frameTable_acquire : FrameTable parseAcquire acquireBytes (fun _ => True) acquireFrameGood where
  parse_bytes a _ := by
    obtain ⟨hclear, hpol, how⟩ := identityFlags_fields a.pol a.ow
    simp [parseAcquire, acquireBytes, hclear, hpol, how]
  parse_cases t := by
    match t with
    | [f, a0, a1, c0, c1] =>
      by_cases hf : flagsReservedClear f = true
      · exact .inr ⟨by simp [acquireFrameGood, hf], _, if_pos hf, trivial, by simp [acquireBytes, identityFlags_of_clear f hf]⟩
      · exact .inl ⟨by simp [acquireFrameGood, hf], if_neg hf⟩
    | [] | [_] | [_, _] | [_, _, _] | [_, _, _, _] => exact .inl ⟨rfl, rfl⟩
    | _ :: _ :: _ :: _ :: _ :: _ :: _ => exact .inl ⟨rfl, rfl⟩

theorem frameTable_extend : FrameTable parseExtend extendBytes (·.d.length ≤ 255) extendFrameGood where
  parse_bytes a hfits := by
    obtain ⟨hclear, hrw⟩ := a.rw.code_fields
    simp [parseExtend, extendBytes, toNat_count hfits, hclear, hrw]
  parse_cases t := by
    match t with
    | h :: pre :: post :: dur :: f :: k0 :: k1 :: n :: d =>
      rw [← Bool.not_eq_true, extendFrameGood_cons]
      by_cases hok : d.length = n.toNat ∧ flagsReservedClear f = true
      · obtain ⟨hn, hf⟩ := hok
        obtain ⟨hc, hr⟩ | ⟨rw, hc, hr, hcode⟩ := replyPolicyOf_of_clear hf
        · exact .inl ⟨by simp [hc], by simp [parseExtend, hn, hf, hr]⟩
        · refine .inr ⟨⟨hn, hf, hc⟩, { h, pre, post, dur, rw, token := u16 k0 k1, d }, by simp [parseExtend, hn, hf, hr], ?_, ?_⟩
          · show d.length ≤ 255
            omega
          · simp [extendBytes, hcode, hn]
      · exact .inl ⟨fun hg => hok ⟨hg.1, hg.2.1⟩, if_neg hok⟩
    | [] | [_] | [_, _] | [_, _, _] | [_, _, _, _] | [_, _, _, _, _] | [_, _, _, _, _, _] | [_, _, _, _, _, _, _] =>
      exact .inl ⟨rfl, rfl⟩

theorem frameTable_submit : FrameTable parseSubmit submitBytes (·.d.length ≤ 255) submitFrameGood where
  parse_bytes a hfits := by
    obtain ⟨hclear, hpol, how⟩ := identityFlags_fields a.pol a.ow
    obtain ⟨hrclear, hrw⟩ := a.rw.code_fields
    simp [parseSubmit, submitBytes, toNat_count hfits, hclear, hpol, how, hrclear, hrw]
  parse_cases t := by
    match t with
    | f :: a0 :: a1 :: c0 :: c1 :: pre :: post :: dur :: g :: k0 :: k1 :: n :: d =>
      rw [← Bool.not_eq_true, submitFrameGood_cons]
      by_cases hok : d.length = n.toNat ∧ flagsReservedClear f = true ∧ flagsReservedClear g = true
      · obtain ⟨hn, hf, hg⟩ := hok
        obtain ⟨hc, hr⟩ | ⟨rw, hc, hr, hcode⟩ := replyPolicyOf_of_clear hg
        · exact .inl ⟨by simp [hc], by simp [parseSubmit, hn, hf, hg, hr]⟩
        · refine .inr ⟨⟨hn, hf, hg, hc⟩,
            { pol := polarityOf f, ow := overwriteOf f, addr := u16 a0 a1, action := u16 c0 c1, pre, post, dur, rw,
              token := u16 k0 k1, d }, by simp [parseSubmit, hn, hf, hg, hr], ?_, ?_⟩
          · show d.length ≤ 255
            omega
          · simp [submitBytes, identityFlags_of_clear f hf, hcode, hn]
      · exact .inl ⟨fun hgood => hok ⟨hgood.1, hgood.2.1, hgood.2.2.1⟩, if_neg hok⟩
    | [] | [_] | [_, _] | [_, _, _] | [_, _, _, _] | [_, _, _, _, _] | [_, _, _, _, _, _] | [_, _, _, _, _, _, _]
    | [_, _, _, _, _, _, _, _] | [_, _, _, _, _, _, _, _, _] | [_, _, _, _, _, _, _, _, _, _] | [_, _, _, _, _, _, _, _, _, _, _] =>
      exact .inl ⟨rfl, rfl⟩

theorem frameTable_handle : FrameTable parseHandle (fun h => [h]) (fun _ => True) handleFrameGood where
  parse_bytes _ _ := rfl
  parse_cases
    | [] | _ :: _ :: _ => .inl ⟨rfl, rfl⟩
    | [h] => .inr ⟨rfl, h, rfl, trivial, rfl⟩

theorem frameTable_empty : FrameTable parseNone (fun _ => []) (fun _ => True) emptyFrameGood where
  parse_bytes _ _ := rfl
  parse_cases
    | [] => .inr ⟨rfl, (), rfl, trivial, rfl⟩
    | _ :: _ => .inl ⟨rfl, rfl⟩

/-! Words and labels. -/

/-- A step word is its two fields (R90). -/
theorem stepWord_fields (w : StepWord) : (sourceOf w).setWidth 10 <<< 8 ||| (operationOf w).setWidth 10 = w := by
  apply BitVec.eq_of_getLsbD_eq
  intro i hi
  by_cases h8 : i < 8
  · simp [sourceOf, operationOf, hi, h8]
  · have hsub : i - 8 < 2 ∧ 8 + (i - 8) = i := by omega
    simp [sourceOf, operationOf, hi, h8, hsub]

/-- The word of a host label has source 0 and the opcode as its operation (R90). -/
theorem hostWord_fields (op : Byte) : sourceOf (op.setWidth 10) = 0 ∧ operationOf (op.setWidth 10) = op := by
  constructor
  · revert op; decide +kernel
  · simp [operationOf]

theorem decode_hostLabel (op : Byte) (t : List Byte) : decode (hostLabel op t) = .ok (decodeFrame op t) := by
  obtain ⟨hsrc, hop⟩ := hostWord_fields op
  simp [decode, decodeHost, hostLabel, hsrc, hop]

theorem decodeBare_eq_ok {l : StepLabel} {i j : Instr} (h : decodeBare l i = .ok j) :
    operationOf l.word = 0 ∧ l.frame = [] ∧ j = i := by
  unfold decodeBare at h
  split at h
  next hop =>
    split at h <;> cases h
    exact ⟨hop, ‹_›, rfl⟩
  next => cases h

theorem decodeHost_eq_ok {l : StepLabel} {i : Instr} (h : decodeHost l = .ok i) :
    (operationOf l.word = 0 ∧ l.frame = [] ∧ i = .badOpcode []) ∨
      ∃ op t, operationOf l.word = op ∧ l.frame = op :: t ∧ i = decodeFrame op t := by
  unfold decodeHost at h
  split at h
  next hf =>
    split at h <;> cases h
    exact .inl ⟨‹_›, hf, rfl⟩
  next op t hf =>
    split at h <;> cases h
    exact .inr ⟨op, t, ‹_›, hf, rfl⟩

/-- The labels that decode (R90, R91): a host command's, the empty frame's, and the two bare ones. -/
theorem decode_eq_ok {l : StepLabel} {i : Instr} (h : decode l = .ok i) :
    (∃ op t, l = hostLabel op t ∧ i = decodeFrame op t) ∨
      (l = { word := 0, frame := [] } ∧ i = .badOpcode []) ∨ (l = { word := 0x100, frame := [] } ∧ i = .tick) ∨
      (l = { word := 0x200, frame := [] } ∧ i = .mgrInvoke) := by
  obtain ⟨w, f⟩ := l
  have hw := stepWord_fields w
  unfold decode at h
  split at h
  next hsrc =>
    rw [BitVec.eq_of_toNat_eq (y := 0) hsrc] at hw
    obtain ⟨hop, rfl, rfl⟩ | ⟨op, t, hop, rfl, rfl⟩ := decodeHost_eq_ok h
    · exact .inr (.inl ⟨by rw [← hw, hop]; rfl, rfl⟩)
    · exact .inl ⟨op, t, by rw [← hw, hop]; simp [hostLabel], rfl⟩
  next hsrc =>
    obtain ⟨hop, rfl, rfl⟩ := decodeBare_eq_ok h
    rw [BitVec.eq_of_toNat_eq (y := 1) hsrc, hop] at hw
    exact .inr (.inr (.inl ⟨by rw [← hw]; rfl, rfl⟩))
  next hsrc =>
    obtain ⟨hop, rfl, rfl⟩ := decodeBare_eq_ok h
    rw [BitVec.eq_of_toNat_eq (y := 2) hsrc, hop] at hw
    exact .inr (.inr (.inr ⟨by rw [← hw]; rfl, rfl⟩))
  next => cases h

/-! The host commands. -/

/-- Opcode `op` is the host command `mk` (R94), with this frame table. -/
structure HostCommand {α : Type} (op : Byte) (mk : Args α → Instr) {parse : List Byte → Args α} {bytes : α → List Byte}
    {fits : α → Prop} {good : List Byte → Bool} (table : FrameTable parse bytes fits good) : Prop where
  encode_mk : ∀ a, encode (mk a) = hostLabel op (argBytes bytes a)
  decodeFrame_op : ∀ t, decodeFrame op t = mk (parse t)
  wellFormed_ok : ∀ a, (mk (.ok a)).wellFormed = true ↔ fits a
  wellFormed_malformed : ∀ t, (mk (.malformed t)).wellFormed = !good t

section
variable {α : Type} {op : Byte} {mk : Args α → Instr} {parse : List Byte → Args α} {bytes : α → List Byte} {fits : α → Prop}
  {good : List Byte → Bool} {table : FrameTable parse bytes fits good}

theorem HostCommand.decode_encode (hc : HostCommand op mk table) {a : Args α} (ha : (mk a).wellFormed = true) :
    decode (encode (mk a)) = .ok (mk a) := by
  rw [hc.encode_mk, decode_hostLabel, hc.decodeFrame_op]
  cases a with
  | ok a => rw [argBytes, table.parse_bytes a ((hc.wellFormed_ok a).1 ha)]
  | malformed t =>
    rw [hc.wellFormed_malformed, Bool.not_eq_true'] at ha
    obtain ⟨-, ht⟩ | ⟨hgood, -⟩ := table.parse_cases t
    · rw [argBytes, ht]
    · exact absurd (ha.symm.trans hgood) Bool.false_ne_true

theorem HostCommand.encode_decodeFrame (hc : HostCommand op mk table) (t : List Byte) :
    (decodeFrame op t).wellFormed = true ∧ encode (decodeFrame op t) = hostLabel op t := by
  rw [hc.decodeFrame_op, hc.encode_mk]
  obtain ⟨hbad, ht⟩ | ⟨-, a, ht, ha, hbytes⟩ := table.parse_cases t
  · rw [ht, hc.wellFormed_malformed, hbad]
    exact ⟨rfl, rfl⟩
  · rw [ht, argBytes, hbytes]
    exact ⟨(hc.wellFormed_ok a).2 ha, rfl⟩

end

theorem hostCommand_acquire : HostCommand 1 .acquire frameTable_acquire :=
  ⟨fun _ => rfl, fun _ => rfl, fun _ => iff_of_true rfl trivial, fun _ => rfl⟩

theorem hostCommand_extend : HostCommand 2 .extend frameTable_extend :=
  ⟨fun _ => rfl, fun _ => rfl, fun _ => decide_eq_true_iff, fun _ => rfl⟩

theorem hostCommand_complete : HostCommand 3 .complete frameTable_handle :=
  ⟨fun _ => rfl, fun _ => rfl, fun _ => iff_of_true rfl trivial, fun _ => rfl⟩

theorem hostCommand_cancel : HostCommand 4 .cancel frameTable_handle :=
  ⟨fun _ => rfl, fun _ => rfl, fun _ => iff_of_true rfl trivial, fun _ => rfl⟩

theorem hostCommand_submit : HostCommand 5 .submit frameTable_submit :=
  ⟨fun _ => rfl, fun _ => rfl, fun _ => decide_eq_true_iff, fun _ => rfl⟩

theorem hostCommand_freeBuffers : HostCommand 6 .freeBuffers frameTable_empty :=
  ⟨fun _ => rfl, fun _ => rfl, fun _ => iff_of_true rfl trivial, fun _ => rfl⟩

theorem hostCommand_packetsSent : HostCommand 7 .packetsSent frameTable_empty :=
  ⟨fun _ => rfl, fun _ => rfl, fun _ => iff_of_true rfl trivial, fun _ => rfl⟩

theorem hostCommand_resetScan : HostCommand 8 .resetScan frameTable_empty :=
  ⟨fun _ => rfl, fun _ => rfl, fun _ => iff_of_true rfl trivial, fun _ => rfl⟩

theorem hostCommand_scanNext : HostCommand 9 .scanNext frameTable_empty :=
  ⟨fun _ => rfl, fun _ => rfl, fun _ => iff_of_true rfl trivial, fun _ => rfl⟩

/-- An unassigned opcode's frame is kept whole (R196). -/
theorem decodeFrame_of_unassigned {op : Byte} (h : opcodeAssigned op = false) (t : List Byte) :
    decodeFrame op t = .badOpcode (op :: t) := by
  unfold decodeFrame
  split
  case h_10 => rfl
  all_goals simp_all [opcodeAssigned]

/-- Every opcode's frames, assigned or not (R94). -/
theorem encode_decodeFrame (op : Byte) (t : List Byte) :
    (decodeFrame op t).wellFormed = true ∧ encode (decodeFrame op t) = hostLabel op t := by
  cases h : opcodeAssigned op with
  | false =>
    rw [decodeFrame_of_unassigned h]
    exact ⟨by simp [Instr.wellFormed, h], rfl⟩
  | true =>
    have hop : op ∈ [(1 : Byte), 2, 3, 4, 5, 6, 7, 8, 9] := by revert op; decide +kernel
    simp only [List.mem_cons, List.not_mem_nil, or_false] at hop
    obtain rfl | rfl | rfl | rfl | rfl | rfl | rfl | rfl | rfl := hop
    · exact hostCommand_acquire.encode_decodeFrame t
    · exact hostCommand_extend.encode_decodeFrame t
    · exact hostCommand_complete.encode_decodeFrame t
    · exact hostCommand_cancel.encode_decodeFrame t
    · exact hostCommand_submit.encode_decodeFrame t
    · exact hostCommand_freeBuffers.encode_decodeFrame t
    · exact hostCommand_packetsSent.encode_decodeFrame t
    · exact hostCommand_resetScan.encode_decodeFrame t
    · exact hostCommand_scanNext.encode_decodeFrame t

/-! The statements. -/

/-- Settles O1: a host command by its frame table, the other steps by their fixed words. -/
theorem decodeInvertsEncode : Obligations.DecodeInvertsEncode := by
  intro i hw
  cases i with
  | acquire a => exact hostCommand_acquire.decode_encode hw
  | extend a => exact hostCommand_extend.decode_encode hw
  | complete a => exact hostCommand_complete.decode_encode hw
  | cancel a => exact hostCommand_cancel.decode_encode hw
  | submit a => exact hostCommand_submit.decode_encode hw
  | freeBuffers a => exact hostCommand_freeBuffers.decode_encode hw
  | packetsSent a => exact hostCommand_packetsSent.decode_encode hw
  | resetScan a => exact hostCommand_resetScan.decode_encode hw
  | scanNext a => exact hostCommand_scanNext.decode_encode hw
  | tick => rfl
  | mgrInvoke => rfl
  | badOpcode f =>
    cases f with
    | nil => rfl
    | cons op t => rw [encode, decode_hostLabel, decodeFrame_of_unassigned (by simpa [Instr.wellFormed] using hw)]

/-- Settles O2: the labels that decode, one by one. -/
theorem encodeInvertsDecode : Obligations.EncodeInvertsDecode := by
  intro l i h
  obtain ⟨op, t, rfl, rfl⟩ | ⟨rfl, rfl⟩ | ⟨rfl, rfl⟩ | ⟨rfl, rfl⟩ := decode_eq_ok h
  · exact encode_decodeFrame op t
  all_goals exact ⟨rfl, rfl⟩

end Sys2Proof
end

section
/-! PROOFS. Frames in and out: the spec's own frames, the labels that are refused (R91), the malformed frames' answers (R104, R105),
and the length of every result frame (R92, R94). -/

namespace Sys2Proof.Machine

variable {s t : State}

/-- Settles O3: each frame is decoded as it is written. -/
theorem specFramesDecode : Obligations.SpecFramesDecode := by
  unfold Obligations.SpecFramesDecode
  decide

/-! Labels that are no steps. -/

/-- A label the decoder rejects is refused with the decoder's reason (R91). -/
theorem step_of_decode_error {l : StepLabel} {rest : List Input} {why : Reject} (ha : s.agenda = .step l :: rest)
    (hd : decode l = .error why) : step s = .refused (.noSuchStep why) := by
  have hf : fetch s = .reject why := by simp only [fetch, ha, hd]
  simp only [step, hf]

theorem decode_of_reservedSource {l : StepLabel} (hs : sourceOf l.word = 3) : decode l = .error .reservedSource := by
  simp [decode, hs]

theorem decode_of_bare_operation {l : StepLabel} (hs : sourceOf l.word = 1 ∨ sourceOf l.word = 2) (ho : operationOf l.word ≠ 0) :
    decode l = .error .operationNotZero := by
  have hbare : ∀ i, decodeBare l i = .error .operationNotZero := fun _ => if_neg ho
  obtain hs | hs := hs
  · simp [decode, hs, hbare]
  · simp [decode, hs, hbare]

/-- Settles O4: the decoder rejects both kinds of label, and a step hands its reason on. -/
theorem labelsOutsideTheTableAreRefused : Obligations.LabelsOutsideTheTableAreRefused := fun _ _ _ ha =>
  ⟨fun hs => step_of_decode_error ha (decode_of_reservedSource hs),
    fun hs ho => step_of_decode_error ha (decode_of_bare_operation hs ho)⟩

/-- Settles O5: a malformed operand form is answered before anything is looked at. -/
theorem malformedFramesAnswerBadArg : Obligations.MalformedFramesAnswerBadArg := by
  intro s t hs
  refine ⟨?_, ?_, ?_, ?_, ?_, ?_, ?_, ?_, ?_⟩ <;> exact runStep_of_ok hs rfl

/-! The output port through the steps that are no host command: neither TICK nor MGR_INVOKE writes it. -/

theorem State.endTraversal_result (h : s.endTraversal = .ok t) : t.result = s.result := by
  obtain ⟨u, n, e, v, hu, -, hv, -, rfl⟩ := State.endTraversal_eq_ok.1 h
  obtain ⟨b, -, -, rfl⟩ := State.endOfArray_eq_ok.1 hu
  obtain ⟨c, -, ⟨-, rfl⟩ | ⟨-, -, -, rfl⟩⟩ := State.entry_eq_ok.1 hv
  · rfl
  · rfl

theorem State.nextBit_result (h : s.nextBit = .ok t) : t.result = s.result := by
  obtain ⟨-, rfl⟩ | ⟨-, -, e, u, hu, hend⟩ := State.nextBit_eq_ok.1 h
  · rfl
  have hu : u.result = s.result := by
    obtain ⟨c, -, ⟨-, rfl⟩ | ⟨-, -, -, rfl⟩⟩ := State.entry_eq_ok.1 hu
    · rfl
    · rfl
  obtain ⟨-, rfl⟩ | ⟨-, hend⟩ := hend
  · exact hu
  · exact (State.endTraversal_result hend).trans hu

theorem tickBody_result (h : tickBody s = .ok t) : t.result = s.result := by
  obtain ⟨n, k, -, h⟩ := tickBody_eq_ok.1 h
  obtain ⟨-, u, hu, rfl⟩ | ⟨-, rfl⟩ := State.afterCountdown_eq_ok.1 h
  · exact (State.nextBit_result hu :)
  · rfl

theorem State.service_result {h : Nat} (ht : s.service h = .ok t) : t.result = s.result := by
  obtain ⟨b, -, ⟨-, hl⟩ | ⟨-, hr⟩⟩ := State.service_eq_ok.1 ht
  · obtain ⟨b, p, k, a, -, -, -, -, -, rfl⟩ := State.loadHead_eq_ok.1 hl
    rw [State.loaded_eq]
    rfl
  · obtain ⟨b, u, -, hu, rfl⟩ := State.retire_eq_ok.1 hr
    obtain ⟨_, _, _, _, _, -, -, -, -, -, rfl⟩ := State.unlink_eq_ok.1 hu
    rfl

theorem drainFrom_result {n : Nat} {l : Option Nat} (ht : drainFrom n l s = .ok t) : t.result = s.result := by
  induction n generalizing l s with
  | zero =>
    obtain rfl | hl := eq_or_ne l (some 0)
    · cases ht
      rfl
    · simp [drainFrom, hl] at ht
  | succ n ih =>
    match l with
    | none => exact absurd ht (drainFrom_none _ _ _)
    | some 0 =>
      rw [drainFrom_zero] at ht
      cases ht
      rfl
    | some (h + 1) =>
      obtain ⟨b, u, -, -, hu, ht⟩ := (drainFrom_cons h.succ_ne_zero).1 ht
      rw [ih ht]
      obtain ⟨-, -, hu⟩ | ⟨-, rfl⟩ := State.attend_eq_ok.1 hu
      · exact State.service_result hu
      · rfl

theorem managerBody_result (h : managerBody s = .ok t) : t.result = s.result := by
  obtain ⟨b, -, h⟩ := Attempt.bind_eq_ok.1 h
  exact drainFrom_result (s := s.consume) h

/-! Result frames. -/

/-- A command that ends in its answer has a result of that length. -/
theorem result_length_of_answer {α : Type} {x : Attempt α} {f : α → State} {n : Nat} (hf : ∀ a, (f a).result.length = n)
    (h : (do let a ← x; return f a) = Except.ok t) : t.result.length = n := by
  obtain ⟨a, -, ha⟩ := Attempt.bind_eq_ok.1 h
  rw [Attempt.pure_eq_ok.1 ha, hf]

theorem State.scanNext_result_length (h : s.scanNext = .ok t) : t.result.length = 6 := by
  obtain ⟨ring, -, h⟩ := Attempt.bind_eq_ok.1 h
  obtain ⟨live, -, h⟩ := Attempt.bind_eq_ok.1 h
  split at h
  · cases h
    rfl
  · exact result_length_of_answer (fun _ => rfl) h

theorem bodyOf_result_length {i : Instr} (hs : s.result = []) (h : bodyOf i s = .ok t) : t.result.length = resultLength i := by
  cases i with
  | acquire a | extend a | complete a | cancel a | submit a | freeBuffers a =>
    cases a with
    | malformed _ => cases h; rfl
    | ok _ => exact result_length_of_answer (fun _ => rfl) h
  | packetsSent a | resetScan a => cases a <;> cases h <;> rfl
  | scanNext a =>
    cases a with
    | malformed _ => cases h; rfl
    | ok a => exact State.scanNext_result_length h
  | tick => exact congrArg List.length ((tickBody_result h).trans hs)
  | mgrInvoke => exact congrArg List.length ((managerBody_result h).trans hs)
  | badOpcode _ => cases h; rfl

/-- Settles O7: a step that does not halt ran its body, from an empty output port. -/
theorem resultFramesHaveFixedLength : Obligations.ResultFramesHaveFixedLength := by
  intro i s t h hrun
  obtain ⟨-, -, hb⟩ := exec_eq_next_running h hrun
  exact bodyOf_result_length rfl hb

end Sys2Proof.Machine
end

section
/-! PROOFS. What bits an array stands for (R82), and that ENCODE's array stands for the packet's (R85, R110). -/

namespace Sys2Proof.Machine

/-! The bits of a list of entries. -/

theorem entryBit_succ (i : Nat) : entryBit (i + 1) = !entryBit i := by
  unfold entryBit
  rcases Nat.mod_two_eq_zero_or_one i with h | h <;> simp [Nat.add_mod, h]

@[simp] theorem bitsFrom_zero (v : Bool) (l : List Nat) : bitsFrom v (0 :: l) = [] := rfl

theorem bitsFrom_cons {e : Nat} (he : e ≠ 0) (v : Bool) (l : List Nat) :
    bitsFrom v (e :: l) = List.replicate e v ++ bitsFrom (!v) l := if_neg he

/-- The entries after a list with no terminator go on counting (R80). -/
theorem bitsFrom_append {l : List Nat} (hl : ∀ e ∈ l, 0 < e) (i : Nat) (m : List Nat) :
    bitsFrom (entryBit i) (l ++ m) = bitsFrom (entryBit i) l ++ bitsFrom (entryBit (i + l.length)) m := by
  induction l generalizing i with
  | nil => rfl
  | cons e l ih =>
    obtain ⟨he, hl⟩ := List.forall_mem_cons.1 hl
    rw [List.cons_append, bitsFrom_cons he.ne', bitsFrom_cons he.ne', ← entryBit_succ, ih hl, List.append_assoc, List.length_cons,
      Nat.add_assoc, Nat.add_comm 1]

/-! The runs. -/

/-- The runs stand for these bits (R110): no run is empty, the first counts 1-bits, and the open one bits of value `cur`. -/
def Runs.StandFor (r : Runs) (bits : List Bool) : Prop :=
  ∃ o older, r.newest = o :: older ∧ (∀ e ∈ o :: older, 0 < e) ∧ r.cur = entryBit older.length ∧
    arrayBits (o :: older).reverse = bits

theorem arrayBits_concat {older : List Nat} {o : Nat} (h : ∀ e ∈ o :: older, 0 < e) :
    arrayBits (o :: older).reverse = arrayBits older.reverse ++ List.replicate o (entryBit older.length) := by
  obtain ⟨ho, hold⟩ := List.forall_mem_cons.1 h
  have happ := bitsFrom_append (l := older.reverse) (by simpa using hold) 0 [o]
  rw [bitsFrom_cons ho.ne', Nat.zero_add, List.length_reverse] at happ
  simpa [arrayBits, bitsFrom, entryBit] using happ

/-- PUSH_N appends its bits (R110, R112), to the open run or as a new one. -/
theorem pushN_standFor {r : Runs} {bits : List Bool} {k : Nat} (hr : r.StandFor bits) (v : Bool) (hk : 0 < k) :
    (pushN r v k).StandFor (bits ++ List.replicate k v) := by
  obtain ⟨o, older, hnew, hpos, hcur, rfl⟩ := hr
  unfold pushN
  rw [hnew]
  by_cases hv : v = r.cur
  · have hpos' : ∀ e ∈ (o + k) :: older, 0 < e := List.forall_mem_cons.2 ⟨by omega, (List.forall_mem_cons.1 hpos).2⟩
    simp only [if_pos hv]
    refine ⟨o + k, older, rfl, hpos', hcur, ?_⟩
    rw [arrayBits_concat hpos', arrayBits_concat hpos, hv, hcur, List.append_assoc, List.replicate_append_replicate]
  · have hpos' : ∀ e ∈ k :: o :: older, 0 < e := List.forall_mem_cons.2 ⟨hk, hpos⟩
    have hv' : v = entryBit (o :: older).length := by
      rw [List.length_cons, entryBit_succ, ← hcur]
      exact Bool.eq_not.2 hv
    simp only [if_neg hv]
    refine ⟨k, o :: older, rfl, hpos', hv', ?_⟩
    rw [arrayBits_concat hpos', ← hv']

theorem foldl_push_standFor (l : List Bool) {r : Runs} {bits : List Bool} (hr : r.StandFor bits) :
    (l.foldl push r).StandFor (bits ++ l) := by
  induction l generalizing r bits with
  | nil => simpa using hr
  | cons v l ih => simpa [push] using ih (pushN_standFor hr v Nat.one_pos)

/-- The runs of a packet stand for its bits (R85, R110). -/
theorem arrayBits_packetRuns (d : List Byte) {pre post : Nat} (hpre : 0 < pre) (hpost : 0 < post) :
    arrayBits (packetRuns d pre post) = packetBits d pre post := by
  have hstart : Runs.StandFor { cur := true, newest := [pre] } (List.replicate pre true) :=
    ⟨pre, [], rfl, by simpa using hpre, rfl, by simp [arrayBits, bitsFrom, hpre.ne']⟩
  obtain ⟨o, older, hnew, -, -, hbits⟩ := pushN_standFor (foldl_push_standFor (d.flatMap framedByte) hstart) true hpost
  rw [packetRuns, hnew, hbits, packetBits]

/-- ENCODE's array stands for the packet's bits (R82, R85): its terminator adds none. -/
theorem arrayBits_of_encodePacket {c : Config} {d : List Byte} {pre post : Nat} {a : List Nat} (h : encodePacket c d pre post = .ok a) :
    arrayBits a = packetBits d pre post := by
  obtain ⟨hargs, -, -, rfl⟩ := encodePacket_eq_ok.1 h
  obtain ⟨hpre, hpost, -⟩ := argsOk_bounds hargs
  have happ := bitsFrom_append (packetRuns_positive (d := d) hpre hpost) 0 [0]
  rw [bitsFrom_zero, List.append_nil] at happ
  rw [← arrayBits_packetRuns d hpre hpost]
  exact happ

/-- Nine bits a byte (R85). -/
theorem packetBits_length (d : List Byte) (pre post : Nat) : (packetBits d pre post).length = pre + 9 * d.length + post := by
  have h9 : ∀ b, (framedByte b).length = 9 := fun _ => rfl
  simp only [packetBits, List.length_append, List.length_replicate, List.length_flatMap, h9, List.map_const', List.sum_replicate,
    smul_eq_mul, Nat.mul_comm]

/-- Settles O57: the runs stand for the bits pushed so far, from the preamble on. -/
theorem encodeStandsForThePacket : Obligations.EncodeStandsForThePacket := by
  intro c d pre post a h
  rw [arrayBits_of_encodePacket h]
  exact ⟨by rw [packetBits, List.flatMap_def]; rfl, packetBits_length d pre post⟩

/-- Settles O58: the entries are the packet's runs, none of them empty, and the terminator. -/
theorem encodeIsWellFormed : Obligations.EncodeIsWellFormed := by
  intro c d pre post a h
  obtain ⟨hargs, hmax, hlen, rfl⟩ := encodePacket_eq_ok.1 h
  obtain ⟨hpre, hpost, -⟩ := argsOk_bounds hargs
  refine ⟨by simpa using hlen, (arrayOk_of_encodePacket h).2, (packetRuns d pre post).length,
    List.length_pos_iff.2 (packetRuns_ne_nil d pre post), by simp, by simp, fun i e hi he => ?_⟩
  rw [List.getElem?_append_left hi] at he
  exact (packetRuns_positive hpre hpost e (List.mem_of_getElem? he)).ne'

end Sys2Proof.Machine
end

section
/-! PROOFS. The waveform of one traversal (R82, R89, R164): two TICKs a bit, and the array's bits one after another. -/

namespace Sys2Proof.Machine

variable {s t : State}

/-! TICKs in a row. -/

theorem runTicks_succ_of_next {k : Nat} (h : exec .tick s = .next t) (ht : t.halted = false) : runTicks (k + 1) s = runTicks k t := by
  simp [runTicks, h, ht]

theorem runTicks_succ_eq_some {k : Nat} (h : runTicks (k + 1) s = some t) :
    ∃ u, exec .tick s = .next u ∧ u.halted = false ∧ runTicks k u = some t := by
  unfold runTicks at h
  split at h
  next u hu =>
    split at h
    · cases h
    next hrun => exact ⟨u, hu, Bool.eq_false_iff.2 hrun, h⟩
  next => cases h

theorem runTicks_add {j k : Nat} (h : runTicks j s = some t) : runTicks (j + k) s = runTicks k t := by
  induction j generalizing s with
  | zero =>
    cases h
    rw [Nat.zero_add]
  | succ j ih =>
    obtain ⟨u, hu, hrun, h⟩ := runTicks_succ_eq_some h
    rw [Nat.succ_add, runTicks_succ_of_next hu hrun, ih h]

/-- A bit's second half (R160): the level and the countdown have changed and nothing else. -/
def State.midBit (s : State) : State :=
  { s with eng := { s.eng with track := !s.eng.track, half := 1 }, result := [] }

theorem exec_tick_firstHalf (hs : s.halted = false) (hhalf : s.eng.half = 2) : exec .tick s = .next s.midBit :=
  runStep_of_ok hs (tickBody_eq_ok.2 ⟨1, 0, State.countdown_of_two hhalf, State.afterCountdown_eq_ok.2 (.inr ⟨by decide, rfl⟩)⟩)

theorem exec_tick_secondHalf {u : State} (hs : s.halted = false) (hhalf : s.eng.half = 1)
    (hu : s.clearResult.toggleTrack.nextBit = .ok u) : exec .tick s = .next u.startBit :=
  runStep_of_ok hs
    (tickBody_eq_ok.2 ⟨0, 0, State.countdown_of_one hhalf, State.afterCountdown_eq_ok.2 (.inl ⟨rfl, u, hu, rfl⟩)⟩)

/-- The state in which NEXT_BIT looks for the next bit (R160), both halves of this one being over. -/
def State.bitOver (s : State) : State := s.midBit.clearResult.toggleTrack

/-- Two TICKs play one bit (R89, R164), and the next one starts where NEXT_BIT says. -/
theorem Sound.runTicks_two {u : State} (hs : Sound s) (hhalf : s.eng.half = 2) (hu : s.bitOver.nextBit = .ok u) :
    runTicks 2 s = some u.startBit ∧ Sound u.startBit := by
  have h1 := exec_tick_firstHalf hs.running hhalf
  have hmid : Sound s.midBit := (SoundAt.of_exec ⟨hs, rfl⟩ h1).2.1
  have h2 := exec_tick_secondHalf hmid.running rfl hu
  have hend : Sound u.startBit := (SoundAt.of_exec ⟨hmid, rfl⟩ h2).2.1
  exact ⟨(runTicks_succ_of_next h1 hmid.running).trans (runTicks_succ_of_next h2 hend.running), hend⟩

/-! The bits ahead. -/

theorem State.bitsAhead_of_buf {b : Buffer} (hb : s.bufs[s.eng.cursor]? = some b) : s.bitsAhead =
    some (List.replicate s.eng.left s.eng.bitval ++ bitsFrom (entryBit (s.eng.idx + 1)) (b.arr.drop (s.eng.idx + 1))) := by
  simp only [State.bitsAhead, hb]

theorem drop_eq_cons_of_getElem? {α : Type} {l : List α} {i : Nat} {x : α} (h : l[i]? = some x) : l.drop i = x :: l.drop (i + 1) := by
  obtain ⟨hl, rfl⟩ := List.getElem?_eq_some_iff.1 h
  exact List.drop_eq_getElem_cons hl

/-- After the entry being played there is another, the terminator or the entry of the next bits (R83). -/
theorem PoolSide.nextEntry (hs : PoolSide s) (hp : Playing s) : ∃ b e, s.bufs[s.eng.cursor]? = some b ∧
    s.eng.idx + 1 < s.cfg.maxTransitions ∧ s.entry s.eng.cursor (s.eng.idx + 1) = .ok (e, s) ∧
    b.arr.drop (s.eng.idx + 1) = e :: b.arr.drop (s.eng.idx + 2) := by
  obtain ⟨⟨b, hb, hrad⟩, b', e, hb', he, hlt, hbefore⟩ := hp
  cases hb.symm.trans hb'
  obtain ⟨hmax, e', he'⟩ := ArrayOk.next (hs.arrays _ b hb hrad) he (by omega) hbefore
  exact ⟨b, e', hb, hmax, State.entry_of_some hb he', drop_eq_cons_of_getElem? he'⟩

/-- NEXT_BIT within an array moves to the next of the bits ahead (R161), and writes the read position and the bit value only. -/
theorem PoolSide.nextBit_of_ahead (hs : PoolSide s) (hp : Playing s) {v : Bool} {bits : List Bool}
    (ha : s.bitsAhead = some (v :: bits)) : ∃ i l, s.nextBit = .ok (s.setEng { s.eng with idx := i, left := l, bitval := v }) ∧
      (s.setEng { s.eng with idx := i, left := l, bitval := v }).bitsAhead = some bits := by
  obtain ⟨b, e, hb, hmax, hentry, hdrop⟩ := hs.nextEntry hp
  rw [State.bitsAhead_of_buf hb, Option.some.injEq] at ha
  cases hl : s.eng.left with
  | succ l =>
    rw [hl, List.replicate_succ, List.cons_append, List.cons.injEq] at ha
    obtain ⟨rfl, rfl⟩ := ha
    refine ⟨s.eng.idx, l, State.nextBit_eq_ok.2 (.inl ⟨by omega, by rw [hl]; rfl⟩), ?_⟩
    exact State.bitsAhead_of_buf (s := s.setEng { s.eng with left := l }) hb
  | zero =>
    rw [hl, List.replicate_zero, List.nil_append, hdrop] at ha
    obtain _ | e := e
    · cases ha
    rw [bitsFrom_cons e.succ_ne_zero, List.replicate_succ, List.cons_append, List.cons.injEq, ← entryBit_succ] at ha
    obtain ⟨rfl, rfl⟩ := ha
    refine ⟨s.eng.idx + 1, e, State.nextBit_eq_ok.2 (.inr ⟨hl, hmax, e + 1, s, hentry, .inl ⟨e.succ_ne_zero, rfl⟩⟩), ?_⟩
    exact State.bitsAhead_of_buf (s := s.setEng { s.eng with idx := s.eng.idx + 1, left := e, bitval := _ }) hb

/-- The state stands on the first bit of a radiable buffer's array (R161, R165). -/
def AtArrayStart (s : State) : Prop :=
  s.eng.idx = 0 ∧ s.eng.bitval = true ∧
    ∃ c, s.bufs[s.eng.cursor]? = some c ∧ c.state.radiable = true ∧ c.arr[0]? = some (s.eng.left + 1)

/-- The move to the next buffer counts the traversal and starts an array (R161, R165). -/
theorem PoolSide.endTraversal_starts (hs : PoolSide s) (hc : CursorRadiable s) :
    ∃ t, s.endTraversal = .ok t ∧ t.packetsSent = s.packetsSent + 1 ∧ AtArrayStart t := by
  obtain ⟨t, ht, -, ⟨⟨c, hc, hrad⟩, hpos⟩, -⟩ := hs.endTraversal hc
  refine ⟨t, ht, ?_⟩
  obtain ⟨u, n, e, v, hu, -, hv, he, rfl⟩ := State.endTraversal_eq_ok.1 ht
  obtain ⟨b, -, -, rfl⟩ := State.endOfArray_eq_ok.1 hu
  obtain ⟨d, hd, ⟨h0, rfl⟩ | ⟨h0, -, -, rfl⟩⟩ := State.entry_eq_ok.1 hv
  · refine ⟨rfl, rfl, rfl, d, hd, ?_, ?_⟩
    · cases hd.symm.trans hc
      exact hrad
    · show d.arr[0]? = some (e - 1 + 1)
      rw [h0, Nat.sub_add_cancel (Nat.one_le_iff_ne_zero.2 he)]
  · obtain ⟨d', e', hd', he', -⟩ := hpos
    cases hd.symm.trans hd'
    cases h0.symm.trans he'

/-- NEXT_BIT with no bit ahead ends the traversal (R161). -/
theorem PoolSide.nextBit_of_last (hs : PoolSide s) (hp : Playing s) (ha : s.bitsAhead = some []) :
    ∃ t, s.nextBit = .ok t ∧ t.packetsSent = s.packetsSent + 1 ∧ AtArrayStart t := by
  obtain ⟨b, e, hb, hmax, hentry, hdrop⟩ := hs.nextEntry hp
  rw [State.bitsAhead_of_buf hb, Option.some.injEq, List.append_eq_nil_iff, List.replicate_eq_nil_iff, hdrop] at ha
  obtain ⟨hl, hbits⟩ := ha
  obtain _ | e := e
  · obtain ⟨t, ht, hstart⟩ := PoolSide.endTraversal_starts (s := s.setEng { s.eng with idx := s.eng.idx + 1 })
      (hs.withEngine _ _ _) hp.1
    exact ⟨t, State.nextBit_eq_ok.2 (.inr ⟨hl, hmax, 0, s, hentry, .inr ⟨rfl, ht⟩⟩), hstart⟩
  · rw [bitsFrom_cons e.succ_ne_zero] at hbits
    cases hbits

/-! One traversal. -/

/-- `t` stands at the start of a bit in the traversal that `s` began, with nothing but the engine's position changed; `bits` are that
bit and those after it. -/
structure BitStart (s t : State) (bits : List Bool) : Prop where
  sound : Sound t
  half : t.eng.half = 2
  cursor : t.eng.cursor = s.eng.cursor
  bufs : t.bufs = s.bufs
  packetsSent : t.packetsSent = s.packetsSent
  cfg : t.cfg = s.cfg
  bits : t.bitsAhead.map (t.eng.bitval :: ·) = some bits

theorem Sound.playing_bitOver (hs : Sound s) : PoolSide s.bitOver ∧ Playing s.bitOver :=
  have hclear : Sound s.clearResult := (SoundAt.withOutputs ⟨hs, rfl⟩ _ _ _ _ _ _).1
  ⟨hclear.poolSide.withEngine _ _ _, hs.cursor, hs.position⟩

/-- From one bit to the next (R164). -/
theorem BitStart.next {v w : Bool} {bits : List Bool} (h : BitStart s t (v :: w :: bits)) :
    ∃ u, runTicks 2 t = some u ∧ BitStart s u (w :: bits) := by
  obtain ⟨ahead, ha, hbits⟩ := Option.map_eq_some_iff.1 h.bits
  cases hbits
  obtain ⟨hside, hplay⟩ := h.sound.playing_bitOver
  obtain ⟨i, l, hn, hnext⟩ := hside.nextBit_of_ahead hplay ha
  obtain ⟨hrun, hsound⟩ := h.sound.runTicks_two h.half hn
  exact ⟨_, hrun, hsound, rfl, h.cursor, h.bufs, h.packetsSent, h.cfg, Option.map_eq_some_iff.2 ⟨bits, hnext, rfl⟩⟩

/-- From the last bit to the next array (R161, R165). -/
theorem BitStart.last {v : Bool} (h : BitStart s t [v]) :
    ∃ u, runTicks 2 t = some u ∧ u.packetsSent = s.packetsSent + 1 ∧ u.eng.half = 2 ∧ AtArrayStart u := by
  obtain ⟨ahead, ha, hbits⟩ := Option.map_eq_some_iff.1 h.bits
  cases hbits
  obtain ⟨hside, hplay⟩ := h.sound.playing_bitOver
  obtain ⟨u, hn, hsent, hstart⟩ := hside.nextBit_of_last hplay ha
  obtain ⟨hrun, -⟩ := h.sound.runTicks_two h.half hn
  exact ⟨_, hrun, hsent.trans (congrArg (· + 1) h.packetsSent), rfl, hstart⟩

/-- Bit `k` starts after `2k` TICKs. -/
theorem BitStart.after {bits : List Bool} (h : BitStart s s bits) {k : Nat} (hk : k < bits.length) :
    ∃ t, runTicks (2 * k) s = some t ∧ BitStart s t (bits.drop k) := by
  induction k with
  | zero => exact ⟨s, rfl, h⟩
  | succ k ih =>
    obtain ⟨t, ht, hbit⟩ := ih (by omega)
    rw [List.drop_eq_getElem_cons (by omega), List.drop_eq_getElem_cons hk] at hbit
    obtain ⟨u, hu, hnext⟩ := hbit.next
    rw [← List.drop_eq_getElem_cons] at hnext
    exact ⟨u, (runTicks_add ht).trans hu, hnext⟩

/-- At the start of an array its bits are those of R82. -/
theorem BitStart.of_arrayStart {b : Buffer} (hs : Sound s) (hb : s.bufs[s.eng.cursor]? = some b) (hhalf : s.eng.half = 2)
    (hidx : s.eng.idx = 0) (hleft : b.arr[0]? = some (s.eng.left + 1)) : BitStart s s (arrayBits b.arr) := by
  obtain ⟨-, -, hbit, -⟩ := hs.engine
  have harr : b.arr = (s.eng.left + 1) :: b.arr.drop 1 := by simpa using drop_eq_cons_of_getElem? hleft
  refine ⟨hs, hhalf, rfl, rfl, rfl, rfl, ?_⟩
  rw [State.bitsAhead_of_buf hb, hbit, hidx, harr, arrayBits, bitsFrom_cons (Nat.succ_ne_zero _)]
  rfl

/-- Settles O33: two TICKs a bit take the traversal through the array's bits, and the last two to the next array. -/
theorem waveformOfAnArray : Obligations.WaveformOfAnArray := by
  intro s b hs hb hhalf hidx hleft
  have hstart := BitStart.of_arrayStart hs hb hhalf hidx hleft
  refine ⟨fun k v hv => ?_, ?_⟩
  · obtain ⟨hk, rfl⟩ := List.getElem?_eq_some_iff.1 hv
    obtain ⟨t, ht, hbit⟩ := hstart.after hk
    rw [List.drop_eq_getElem_cons hk] at hbit
    obtain ⟨ahead, -, hval⟩ := Option.map_eq_some_iff.1 hbit.bits
    obtain ⟨hval, -⟩ := List.cons.inj hval
    obtain ⟨-, htrack, -, hcmp⟩ := hbit.sound.engine
    rw [hbit.half] at htrack
    rw [hval, hbit.cfg] at hcmp
    refine ⟨⟨t, ht, hbit.cursor, hbit.bufs, hbit.packetsSent, hbit.half, htrack, hval, hcmp⟩, t.midBit, ?_, hbit.cursor, ?_, hval, hcmp⟩
    · rw [runTicks_add ht]
      exact runTicks_succ_of_next (exec_tick_firstHalf hbit.sound.running hbit.half) hbit.sound.running
    · exact congrArg Bool.not htrack
  · obtain ⟨k, hk⟩ : ∃ k, (arrayBits b.arr).length = k + 1 := by
      obtain ⟨ahead, -, hbits⟩ := Option.map_eq_some_iff.1 hstart.bits
      exact ⟨ahead.length, by rw [← hbits]; rfl⟩
    obtain ⟨t, ht, hbit⟩ := hstart.after (k := k) (by omega)
    rw [List.drop_eq_getElem_cons (by omega), List.drop_eq_nil_of_le hk.le] at hbit
    obtain ⟨u, hu, hsent, hhalf', hidx', hval, hnext⟩ := hbit.last
    exact ⟨u, by rw [hk]; exact (runTicks_add ht).trans hu, hsent, hhalf', hidx', hval, hnext⟩

end Sys2Proof.Machine
end

section
/-! PROOFS. The packet is read off its bits (R117, R118): the preamble ends at the first start bit, and a byte starts where a 0 follows. -/

namespace Sys2Proof.Machine

/-- A byte is its bits (R63). -/
theorem byteBits_injective {b c : Byte} (h : byteBits b = byteBits c) : b = c := by
  simp only [byteBits, List.cons.injEq, and_true] at h
  obtain ⟨h7, h6, h5, h4, h3, h2, h1, h0⟩ := h
  refine BitVec.eq_of_getLsbD_eq fun i hi => ?_
  interval_cases i <;> assumption

/-- The bytes are read off one start bit after the other, and what is left is the postamble. -/
theorem framed_injective {d e : List Byte} {post post' : Nat}
    (h : d.flatMap framedByte ++ List.replicate post true = e.flatMap framedByte ++ List.replicate post' true) :
    d = e ∧ post = post' := by
  induction d generalizing e with
  | nil =>
    cases e with
    | nil => exact ⟨rfl, by simpa using congrArg List.length h⟩
    | cons c e => cases post <;> simp [framedByte, List.replicate_succ] at h
  | cons b d ih =>
    cases e with
    | nil => cases post' <;> simp [framedByte, List.replicate_succ] at h
    | cons c e =>
      rw [List.flatMap_cons, List.flatMap_cons, List.append_assoc, List.append_assoc] at h
      obtain ⟨hbyte, hrest⟩ := List.append_inj h rfl
      obtain ⟨rfl, rfl⟩ := ih hrest
      exact ⟨congrArg (· :: d) (byteBits_injective (List.cons.inj hbyte).2), rfl⟩

/-- The preamble ends at the first 0. -/
theorem preamble_injective {pre pre' : Nat} {l l' : List Bool}
    (h : List.replicate pre true ++ false :: l = List.replicate pre' true ++ false :: l') : pre = pre' ∧ l = l' := by
  induction pre generalizing pre' with
  | zero =>
    cases pre' with
    | zero => exact ⟨rfl, (List.cons.inj h).2⟩
    | succ pre' => cases h
  | succ pre ih =>
    cases pre' with
    | zero => cases h
    | succ pre' =>
      obtain ⟨rfl, hl⟩ := ih (List.cons.inj h).2
      exact ⟨rfl, hl⟩

/-- The packet is read off its bits (R118). -/
theorem packetBits_injective {d e : List Byte} {pre pre' post post' : Nat} (hd : d ≠ []) (he : e ≠ [])
    (h : packetBits d pre post = packetBits e pre' post') : d = e ∧ pre = pre' ∧ post = post' := by
  obtain ⟨b, d, rfl⟩ := List.exists_cons_of_ne_nil hd
  obtain ⟨c, e, rfl⟩ := List.exists_cons_of_ne_nil he
  rw [packetBits, packetBits, List.append_assoc, List.append_assoc] at h
  obtain ⟨rfl, hl⟩ := preamble_injective h
  obtain ⟨hde, hpost⟩ := framed_injective (d := b :: d) (e := c :: e) (congrArg (false :: ·) hl)
  exact ⟨hde, rfl, hpost⟩

/-- `ARGS_OK`, bound by bound (R111). -/
theorem argsOk_iff {c : Config} {n pre post : Nat} : argsOk c n pre post = true ↔
    ((((1 ≤ pre ∧ pre ≤ 255) ∧ 1 ≤ post) ∧ post ≤ 255) ∧ 1 ≤ n) ∧ n ≤ c.maxCommand := by
  simp only [argsOk, Bool.and_eq_true, decide_eq_true_eq]

/-- An accepted packet has a byte (R111). -/
theorem ne_nil_of_argsOk {c : Config} {d : List Byte} {pre post : Nat} (h : argsOk c d.length pre post = true) : d ≠ [] := by
  obtain ⟨⟨-, hn⟩, -⟩ := argsOk_iff.1 h
  exact List.length_pos_iff.1 hn

/-- Settles O59: the array stands for the packet's bits, and the packet is read off its bits. -/
theorem encodeIsInjective : Obligations.EncodeIsInjective := by
  intro c d e pre post pre' post' a hd he
  have hbits := (arrayBits_of_encodePacket hd).symm.trans (arrayBits_of_encodePacket he)
  exact packetBits_injective (ne_nil_of_argsOk (encodePacket_eq_ok.1 hd).1) (ne_nil_of_argsOk (encodePacket_eq_ok.1 he).1) hbits

end Sys2Proof.Machine
end

section
/-! PROOFS. ENCODE's worst case: how many runs a packet has (R115), and how long they are (R113). -/

namespace Sys2Proof.Machine

/-! PUSH_N, one equation per case of R110. -/

theorem pushN_of_same {r : Runs} {o : Nat} {older : List Nat} (hr : r.newest = o :: older) (k : Nat) :
    pushN r r.cur k = { cur := r.cur, newest := (o + k) :: older } := by
  simp only [pushN, hr, if_true]

theorem pushN_of_change {r : Runs} {v : Bool} (hr : r.newest ≠ []) (hv : v ≠ r.cur) (k : Nat) :
    pushN r v k = { cur := v, newest := k :: r.newest } := by
  obtain ⟨o, older, ho⟩ := List.exists_cons_of_ne_nil hr
  simp only [pushN, ho, if_neg hv]

@[simp] theorem pushN_cur (r : Runs) (v : Bool) (k : Nat) : (pushN r v k).cur = v := by
  unfold pushN
  split
  · split
    next hv => exact hv.symm
    next => rfl
  · rfl

/-- Bits of the same value pushed in two steps are one push (R112). -/
theorem pushN_pushN (r : Runs) (v : Bool) (j k : Nat) : pushN (pushN r v j) v k = pushN r v (j + k) := by
  cases hnew : r.newest with
  | nil => simp only [pushN, hnew, if_true]
  | cons o older =>
    by_cases hv : v = r.cur
    · simp only [pushN, hnew, if_pos hv, Nat.add_assoc]
    · simp only [pushN, hnew, if_neg hv, if_true]

theorem pushN_sum (r : Runs) (v : Bool) (k : Nat) : (pushN r v k).newest.sum = r.newest.sum + k := by
  unfold pushN
  split
  next o older ho => split <;> simp only [ho, List.sum_cons] <;> omega
  next ho => simp [ho]

/-- A push leaves every run but the open one as it is. -/
theorem pushN_suffix (r : Runs) (v : Bool) (k : Nat) : r.newest.tail <:+ (pushN r v k).newest.tail := by
  unfold pushN
  split
  next o older ho =>
    rw [ho]
    split
    · exact List.suffix_rfl
    · exact List.suffix_cons o older
  next ho => simp [ho]

theorem foldl_push_ne_nil (l : List Bool) {r : Runs} (hr : r.newest ≠ []) : (l.foldl push r).newest ≠ [] := by
  induction l generalizing r with
  | nil => exact hr
  | cons v l ih => exact ih (pushN_newest_ne_nil r v 1)

theorem foldl_push_sum (l : List Bool) (r : Runs) : (l.foldl push r).newest.sum = r.newest.sum + l.length := by
  induction l generalizing r with
  | nil => rfl
  | cons v l ih => rw [List.foldl_cons, ih, push, pushN_sum, List.length_cons, Nat.add_assoc, Nat.add_comm 1]

theorem foldl_push_suffix (l : List Bool) (r : Runs) : r.newest.tail <:+ (l.foldl push r).newest.tail := by
  induction l generalizing r with
  | nil => exact List.suffix_rfl
  | cons v l ih => exact (pushN_suffix r v 1).trans (ih _)

/-! How many runs: a run of 1-bits starts at each rise, and the runs of 0-bits lie between them. -/

/-- How often the bits go from 0 to 1, after a bit of value `v`. -/
def rises (v : Bool) : List Bool → Nat
  | [] => 0
  | w :: l => (w && !v).toNat + rises w l

/-- Twice the number of runs of 1-bits, where the first run is one of them. -/
def Runs.weight (r : Runs) : Nat := r.newest.length + r.cur.toNat

theorem pushN_weight {r : Runs} (hr : r.newest ≠ []) (v : Bool) (k : Nat) :
    (pushN r v k).weight = r.weight + 2 * (v && !r.cur).toNat := by
  obtain ⟨o, older, ho⟩ := List.exists_cons_of_ne_nil hr
  by_cases hv : v = r.cur
  · rw [hv, pushN_of_same ho, Runs.weight, Runs.weight, ho, List.length_cons, List.length_cons, Bool.and_not_self]
    rfl
  · rw [pushN_of_change hr hv, Runs.weight, Runs.weight, Bool.eq_not.2 hv, List.length_cons]
    cases r.cur <;> simp

theorem foldl_push_weight (l : List Bool) {r : Runs} (hr : r.newest ≠ []) (k : Nat) :
    (pushN (l.foldl push r) true k).weight = r.weight + 2 * rises r.cur (l ++ [true]) := by
  induction l generalizing r with
  | nil => exact pushN_weight hr true k
  | cons v l ih =>
    have hpush : (push r v).weight = r.weight + 2 * (v && !r.cur).toNat := pushN_weight hr v 1
    have hcur : (push r v).cur = v := pushN_cur r v 1
    rw [List.foldl_cons, ih (r := push r v) (pushN_newest_ne_nil r v 1), hpush, hcur, List.cons_append, rises, Nat.mul_add, Nat.add_assoc]

/-- Between the preamble and the postamble there is a run of 0-bits before each rise, and a run of 1-bits after it. -/
theorem packetRuns_length (d : List Byte) (pre post : Nat) :
    (packetRuns d pre post).length = 2 * rises true (d.flatMap framedByte ++ [true]) + 1 := by
  have h := foldl_push_weight (d.flatMap framedByte) (r := { cur := true, newest := [pre] }) (by simp) post
  simp only [Runs.weight, pushN_cur, List.length_singleton, Bool.toNat_true] at h
  rw [packetRuns, List.length_reverse]
  omega

/-- Two bits hold at most one rise. -/
theorem rises_pair_le (u v w : Bool) (l : List Bool) : rises u (v :: w :: l) ≤ 1 + rises w l := by
  simp only [rises]
  cases u <;> cases v <;> cases w <;> simp

/-- A byte as sent holds at most four rises: its start bit is none (R115). -/
theorem rises_framedByte_le (v : Bool) (b : Byte) (l : List Bool) :
    rises v (framedByte b ++ l) ≤ 4 + rises (b.getLsbD 0) l := by
  have h76 := rises_pair_le false (b.getLsbD 7) (b.getLsbD 6) ((byteBits b).drop 2 ++ l)
  have h54 := rises_pair_le (b.getLsbD 6) (b.getLsbD 5) (b.getLsbD 4) ((byteBits b).drop 4 ++ l)
  have h32 := rises_pair_le (b.getLsbD 4) (b.getLsbD 3) (b.getLsbD 2) ((byteBits b).drop 6 ++ l)
  have h10 := rises_pair_le (b.getLsbD 2) (b.getLsbD 1) (b.getLsbD 0) l
  have hstart : rises v (framedByte b ++ l) = rises false (byteBits b ++ l) := Nat.zero_add _
  simp only [byteBits, List.drop_succ_cons, List.drop_zero, List.cons_append, List.nil_append] at *
  omega

theorem rises_packet_le (v : Bool) (d : List Byte) : rises v (d.flatMap framedByte ++ [true]) ≤ 4 * d.length + 1 := by
  induction d generalizing v with
  | nil => cases v <;> decide
  | cons b d ih =>
    have hbyte := rises_framedByte_le v b (d.flatMap framedByte ++ [true])
    have hrest := ih (b.getLsbD 0)
    rw [List.flatMap_cons, List.append_assoc, List.length_cons]
    omega

/-- `0xAA` rises four times and ends with a 0 (R115). -/
theorem rises_framedByte_0xAA (v : Bool) (l : List Bool) : rises v (framedByte 0xAA ++ l) = 4 + rises false l := by
  have h : framedByte 0xAA = [false, true, false, true, false, true, false, true, false] := by decide
  simp only [h, List.cons_append, List.nil_append, rises, Bool.not_true, Bool.not_false, Bool.and_true, Bool.and_false,
    Bool.false_and, Bool.toNat_true, Bool.toNat_false]
  omega

theorem rises_packet_0xAA {d : List Byte} (hd : ∀ b ∈ d, b = 0xAA) :
    rises false (d.flatMap framedByte ++ [true]) = 4 * d.length + 1 := by
  induction d with
  | nil => rfl
  | cons b d ih =>
    obtain ⟨hb, hd⟩ := List.forall_mem_cons.1 hd
    rw [List.flatMap_cons, List.append_assoc, hb, rises_framedByte_0xAA, ih hd, List.length_cons]
    omega

/-- A packet's first bit is a start bit, so the rises are those after a 0. -/
theorem rises_packet_eq {d : List Byte} (hd : d ≠ []) (v : Bool) (l : List Bool) :
    rises v (d.flatMap framedByte ++ l) = rises false (d.flatMap framedByte ++ l) := by
  obtain ⟨b, d, rfl⟩ := List.exists_cons_of_ne_nil hd
  rfl

/-! How long the runs are. -/

/-- The 1-bits at the end of a bit list. -/
def trailingOnes (l : List Bool) : Nat := (l.reverse.takeWhile (· = true)).length

@[simp] theorem trailingOnes_concat_true (l : List Bool) : trailingOnes (l ++ [true]) = trailingOnes l + 1 := by
  simp [trailingOnes]

@[simp] theorem trailingOnes_concat_false (l : List Bool) : trailingOnes (l ++ [false]) = 0 := by
  simp [trailingOnes]

/-- Bits before a 0 do not count. -/
theorem trailingOnes_append_zero (l m : List Bool) : trailingOnes (l ++ false :: m) = trailingOnes m := by
  induction m using List.reverseRecOn with
  | nil => exact trailingOnes_concat_false l
  | append_singleton m v ih =>
    rw [← List.cons_append, ← List.append_assoc]
    cases v
    · rw [trailingOnes_concat_false, trailingOnes_concat_false]
    · rw [trailingOnes_concat_true, trailingOnes_concat_true, ih]

/-- The 1-bits at the end of a packet's bytes are those of its last byte: its start bit is a 0 (R113). -/
theorem trailingOnes_packet (b : Byte) (d : List Byte) : trailingOnes (byteBits b ++ d.flatMap framedByte) =
    trailingOnes (((b :: d).getLast?.map byteBits).getD []) := by
  induction d generalizing b with
  | nil => rfl
  | cons c d ih => rw [List.getLast?_cons_cons, ← ih c]; exact trailingOnes_append_zero _ _

/-- After bits pushed on an open run of 0-bits, a push of 1-bits opens or extends a run of the 1-bits at the end. -/
theorem head_pushN_true (l : List Bool) {r : Runs} (hr : r.newest ≠ []) (hc : r.cur = false) (k : Nat) :
    (pushN (l.foldl push r) true k).newest.head? = some (trailingOnes l + k) := by
  induction l using List.reverseRecOn generalizing k with
  | nil =>
    rw [List.foldl_nil, pushN_of_change hr (by simp [hc])]
    simp [trailingOnes]
  | append_singleton l v ih =>
    rw [List.foldl_append, List.foldl_cons, List.foldl_nil, push]
    cases v
    · rw [pushN_of_change (pushN_newest_ne_nil _ _ _) (by simp)]
      simp
    · rw [pushN_pushN, ih, trailingOnes_concat_true, Nat.add_assoc]

/-- The runs count the packet's bits (R85). -/
theorem packetRuns_sum (d : List Byte) (pre post : Nat) : (packetRuns d pre post).sum = pre + 9 * d.length + post := by
  rw [packetRuns, List.sum_reverse, pushN_sum, foldl_push_sum, ← packetBits_length]
  simp [packetBits, Nat.add_assoc]

/-- The first run is the preamble, and the last one the trailing 1-bits of the bytes with the postamble (R113). -/
theorem packetRuns_eq {d : List Byte} (hd : d ≠ []) (pre post : Nat) : ∃ mid : List Nat,
    packetRuns d pre post = pre :: mid ++ [trailingOnes ((d.getLast?.map byteBits).getD []) + post] := by
  obtain ⟨b, d, rfl⟩ := List.exists_cons_of_ne_nil hd
  -- the first start bit closes the preamble
  have hstart : ((b :: d).flatMap framedByte).foldl push { cur := true, newest := [pre] } =
      (byteBits b ++ d.flatMap framedByte).foldl push { cur := false, newest := [1, pre] } := rfl
  have hlast := head_pushN_true (byteBits b ++ d.flatMap framedByte) (r := { cur := false, newest := [1, pre] }) (by simp) rfl post
  have hfirst := (foldl_push_suffix (byteBits b ++ d.flatMap framedByte) { cur := false, newest := [1, pre] }).trans
    (pushN_suffix _ true post)
  obtain ⟨older, hnew⟩ := List.head?_eq_some_iff.1 hlast
  rw [hnew] at hfirst
  obtain ⟨mid, rfl⟩ := hfirst
  rw [packetRuns, hstart, hnew, trailingOnes_packet]
  exact ⟨mid.reverse, by simp⟩

/-- ENCODE of an accepted packet overflows by the length of a run (R113) or by the number of the runs (R114). -/
theorem encodePacket_eq_overflow {c : Config} {d : List Byte} {pre post : Nat} (h : argsOk c d.length pre post = true) :
    encodePacket c d pre post = .overflow ↔
      (∃ e ∈ packetRuns d pre post, c.runMax < e) ∨ c.maxTransitions < (packetRuns d pre post).length + 1 := by
  have hany : (packetRuns d pre post).any (c.runMax < ·) = true ↔ ∃ e ∈ packetRuns d pre post, c.runMax < e := by
    simp
  simp only [encodePacket, h, Bool.not_true, Bool.false_eq_true, if_false, hany]
  split
  next hm => exact iff_of_true rfl (.inl hm)
  next hm =>
    split
    next hl => exact iff_of_true rfl (.inr hl)
    next hl => exact iff_of_false (by simp) (not_or.2 ⟨hm, hl⟩)

theorem packetRuns_length_le (d : List Byte) (pre post : Nat) : (packetRuns d pre post).length ≤ 8 * d.length + 3 := by
  have h := rises_packet_le true d
  rw [packetRuns_length]
  omega

theorem packetRuns_length_0xAA {d : List Byte} (hd : d ≠ []) (hb : ∀ b ∈ d, b = 0xAA) (pre post : Nat) :
    (packetRuns d pre post).length = 8 * d.length + 3 := by
  rw [packetRuns_length, rises_packet_eq hd, rises_packet_0xAA hb]
  omega

/-- Where preamble and bytes are too short for it, the last run alone can pass a bound (R113). -/
theorem exists_run_gt_iff {d : List Byte} (hd : d ≠ []) {pre m : Nat} (hpre : pre ≤ m) (hm : 9 * d.length ≤ m) (post : Nat) :
    (∃ e ∈ packetRuns d pre post, m < e) ↔ m < trailingOnes ((d.getLast?.map byteBits).getD []) + post := by
  obtain ⟨mid, hruns⟩ := packetRuns_eq hd pre post
  have hsum := packetRuns_sum d pre post
  have hmid : ∀ e ∈ mid, e ≤ m := by
    intro e he
    have hle := List.le_sum_of_mem he
    rw [hruns, List.sum_append, List.sum_cons, List.sum_singleton] at hsum
    omega
  constructor
  · rintro ⟨e, he, hlt⟩
    rw [hruns, List.cons_append, List.mem_cons, List.mem_append, List.mem_singleton] at he
    obtain rfl | he | rfl := he
    · omega
    · have := hmid e he
      omega
    · exact hlt
  · exact fun h => ⟨_, by simp [hruns], h⟩

/-- Settles O60: the runs are counted by the rises, the capacity holds them all, and the last run alone can pass 255. -/
theorem encodeWorstCase : Obligations.EncodeWorstCase := by
  intro c d pre post h
  obtain ⟨⟨⟨⟨⟨-, hpre⟩, -⟩, -⟩, -⟩, hn⟩ := argsOk_iff.1 h
  have hd := ne_nil_of_argsOk h
  have hlen := packetRuns_length_le d pre post
  refine ⟨hlen, fun hb => packetRuns_length_0xAA hd hb pre post, fun hcap hwidth hmax => ?_⟩
  have hfits : ¬ c.maxTransitions < (packetRuns d pre post).length + 1 := by omega
  have hrunMax : c.runMax = 255 := by simp [Config.runMax, hwidth]
  rw [encodePacket_eq_overflow h, or_iff_left hfits, hrunMax]
  exact exists_run_gt_iff hd hpre (by omega) post

end Sys2Proof.Machine
end

section
/-! PROOFS. What the pool's host commands share: how a command ends, the check of its handle (R62), the release of a queue (R132). -/

namespace Sys2Proof.Machine

variable {s t : State} {h : Nat}

/-! The ends of the commands. -/

/-- ACQUIRE's result frame follows its answer (R95). -/
theorem exec_acquire_of_ok {a : AcquireArgs} {r : Reply} (hs : s.halted = false)
    (hr : s.clearResult.acquire a.pol a.addr a.action a.ow = .ok r) : exec (.acquire (.ok a)) s = .next r.withHandle :=
  runStep_of_ok hs (Attempt.bind_eq_ok.2 ⟨r, hr, rfl⟩)

/-- EXTEND's result frame follows its answer (R96). -/
theorem exec_extend_of_ok {a : ExtendArgs} {r : Reply} (hs : s.halted = false)
    (hr : s.clearResult.extend a.h.toNat a = .ok r) : exec (.extend (.ok a)) s = .next r.statusOnly :=
  runStep_of_ok hs (Attempt.bind_eq_ok.2 ⟨r, hr, rfl⟩)

/-- COMPLETE's result frame follows its answer (R97). -/
theorem exec_complete_of_ok {h : Byte} {r : Reply} (hs : s.halted = false) (hr : s.clearResult.complete h.toNat = .ok r) :
    exec (.complete (.ok h)) s = .next r.statusOnly :=
  runStep_of_ok hs (Attempt.bind_eq_ok.2 ⟨r, hr, rfl⟩)

/-- CANCEL's result frame follows its answer (R98). -/
theorem exec_cancel_of_ok {h : Byte} {r : Reply} (hs : s.halted = false) (hr : s.clearResult.cancel h.toNat = .ok r) :
    exec (.cancel (.ok h)) s = .next r.statusOnly :=
  runStep_of_ok hs (Attempt.bind_eq_ok.2 ⟨r, hr, rfl⟩)

/-- COMPLETE ends in a fatal fault's entry where its operation does (R216). -/
theorem exec_complete_of_fatal {h : Byte} {c : FatalCode} (hs : s.halted = false)
    (hr : s.clearResult.complete h.toNat = .error (.fatal c)) : exec (.complete (.ok h)) s = .next (s.clearResult.fatalEntry c) :=
  runStep_of_fatal hs (Attempt.bind_eq_error.2 (.inl hr))

/-- CANCEL ends in a fatal fault's entry where its operation does (R216). -/
theorem exec_cancel_of_fatal {h : Byte} {c : FatalCode} (hs : s.halted = false)
    (hr : s.clearResult.cancel h.toNat = .error (.fatal c)) : exec (.cancel (.ok h)) s = .next (s.clearResult.fatalEntry c) :=
  runStep_of_fatal hs (Attempt.bind_eq_error.2 (.inl hr))

/-! An accepted handle. -/

/-- The buffer of an accepted handle (R62). -/
theorem Accepts.buffer {b : Buffer} (hacc : Accepts s h b) : s.bufs[h]? = some b := by
  obtain ⟨-, -, hb, -⟩ := hacc
  exact hb

theorem Accepts.acceptsHandle {b : Buffer} (hacc : Accepts s h b) : s.acceptsHandle h = true :=
  State.acceptsHandle_iff.2 ⟨b, hacc⟩

/-! RELEASE_QUEUE. -/

/-- What RELEASE_QUEUE of buffer `h`, so far `b`, leaves (R132), where the records are then `m` and the pending free list starts at `l`. -/
def State.released (s : State) (h : Nat) (b : Buffer) (m : List Packet) (l : Option Nat) : State :=
  { s with bufs := s.bufs.set h { b with phead := none, ptail := none }, pkts := m, pool := { s.pool with pfreeHead := l } }

/-- RELEASE_QUEUE of a queue that is read off its links (R132). -/
theorem State.releaseQueue_eq_released {b : Buffer} {q : List Nat} (hb : s.bufs[h]? = some b) (hq : PendingListIs s b.phead q) :
    ∃ m l, s.releaseQueue h = .ok (s.released h b m l) ∧
      ∀ t : State, t.pkts = m → t.pool.pfreeHead = l → QueueReleased s t q := by
  obtain ⟨u, hu, hrel, heq⟩ := State.releaseQueue_of_list hb hq
  refine ⟨u.pkts, u.pool.pfreeHead, ?_, ?_⟩
  · rw [hu, heq, modify_eq_set hb]
    rfl
  · intro t hm hl
    unfold QueueReleased State.pnextOf
    rw [hm, hl]
    exact hrel

/-- RELEASE_QUEUE of an empty queue, whatever the pending free list is (R132). -/
theorem State.releaseQueue_of_empty {b : Buffer} (hb : s.bufs[h]? = some b) (hq : b.phead = none) :
    s.releaseQueue h = .ok (s.released h b s.pkts s.pool.pfreeHead) := by
  refine State.releaseQueue_eq_ok.2 ⟨b, s, hb, ?_, ?_⟩
  · rw [hq, releaseFrom]
  · rw [State.updBuf, modify_eq_set hb]
    rfl

end Sys2Proof.Machine
end

section
/-! PROOFS. Buffer states move as the table of R137 says and in no other way (R138): the states of all buffers under each operation, then
under every step. -/

namespace Sys2Proof.Machine

variable {gs : List Group} {s t u : State} {h : Nat}

/-- The states of the buffers, in handle order. -/
def State.bufStates (s : State) : List BufState := s.bufs.map (·.state)

theorem State.bufStates_getElem? {b : Buffer} (hb : s.bufs[h]? = some b) : s.bufStates[h]? = some b.state := by
  simp [State.bufStates, hb]

/-- Writes that do not reach the buffer states keep them all (R46). -/
theorem Writes.bufStates (hw : Writes gs s t) (hg : .bufState ∉ gs) : t.bufStates = s.bufStates :=
  (hw.same (g := .bufState) hg).symm

/-- A write of one buffer record sets that buffer's state. -/
theorem State.updBuf_bufStates {b : Buffer} {f : Buffer → Buffer} (hb : s.bufs[h]? = some b) :
    (s.updBuf h f).bufStates = s.bufStates.set h (f b).state := by
  rw [State.bufStates, State.updBuf_bufs, modify_eq_set hb, List.map_set]
  rfl

/-- A write of one buffer record that does not reach its state keeps all states. -/
theorem State.updBuf_bufStates_of_eq {f : Buffer → Buffer} (hf : ∀ b, (f b).state = b.state) :
    (s.updBuf h f).bufStates = s.bufStates := by
  refine List.ext_getElem? fun j => ?_
  rw [State.bufStates, State.bufStates, List.getElem?_map, List.getElem?_map]
  exact State.proj_updBuf (π := (·.state)) hf

/-! What the table allows. -/

/-- Every buffer's state is as it was, or moved as the table of R137 allows the step. -/
def StatesMove (i : Instr) (s t : State) : Prop :=
  ∀ (j : Nat) (b : BufState), t.bufStates[j]? = some b →
    ∃ a, s.bufStates[j]? = some a ∧ (b = a ∨ transitionAllowed i a b = true)

/-- Only the states of the buffers count. -/
theorem StatesMove.congr {i : Instr} {s' t' : State} (h : StatesMove i s t) (hs : s.bufStates = s'.bufStates)
    (ht : t'.bufStates = t.bufStates) : StatesMove i s' t' := by
  unfold StatesMove
  rwa [← hs, ht]

theorem StatesMove.of_eq {i : Instr} (h : t.bufStates = s.bufStates) : StatesMove i s t :=
  fun _ b hb => ⟨b, h ▸ hb, .inl rfl⟩

/-- One buffer's state moved. -/
theorem StatesMove.of_set {i : Instr} {a x : BufState} (ha : s.bufStates[h]? = some a) (hx : x = a ∨ transitionAllowed i a x = true)
    (ht : t.bufStates = s.bufStates.set h x) : StatesMove i s t := by
  intro j b hb
  rw [ht] at hb
  by_cases hj : h = j
  · subst hj
    rw [List.getElem?_set_self (lt_length_of_getElem? ha)] at hb
    cases hb
    exact ⟨a, ha, hx⟩
  · rw [List.getElem?_set_ne hj] at hb
    exact ⟨b, hb, .inl rfl⟩

theorem transitionAllowed_mgrInvoke {a b : BufState} :
    transitionAllowed .mgrInvoke a b = true ↔ a = .load ∧ (b = .run ∨ b = .empty) := by
  cases a <;> cases b <;> simp [transitionAllowed]

/-- No buffer moves twice in one MGR_INVOKE: none leaves `RUN` or `EMPTY`. -/
theorem StatesMove.trans_mgrInvoke (h1 : StatesMove .mgrInvoke s t) (h2 : StatesMove .mgrInvoke t u) : StatesMove .mgrInvoke s u := by
  intro j c hc
  obtain ⟨b, hb, rfl | hbc⟩ := h2 j c hc
  · exact h1 j c hb
  obtain ⟨a, ha, rfl | hab⟩ := h1 j b hb
  · exact ⟨b, ha, .inr hbc⟩
  obtain ⟨rfl, -⟩ := transitionAllowed_mgrInvoke.1 hbc
  simp [transitionAllowed_mgrInvoke] at hab

/-! The operations. -/

/-- LOAD_HEAD moves a buffer from `LOAD` to `RUN` (R136). -/
theorem State.loadHead_bufStates (ht : s.loadHead h = .ok t) :
    s.bufStates[h]? = some .load ∧ t.bufStates = s.bufStates.set h .run := by
  obtain ⟨b, p, k, a, hb, hl, -, -, -, rfl⟩ := State.loadHead_eq_ok.1 ht
  rw [State.loaded_eq]
  exact ⟨hl ▸ State.bufStates_getElem? hb, State.updBuf_bufStates hb⟩

/-- PUSH_FREE of a buffer that leaves `LOAD` for `EMPTY` (R147, R149, R182). -/
theorem State.pushFree_bufStates {b : Buffer} {f : Buffer → Buffer} (hb : s.bufs[h]? = some b) (hf : (f b).state = .empty) :
    ((s.updBuf h f).pushFree h).bufStates = s.bufStates.set h .empty :=
  ((State.pushFree_writes (gs := [.freeLists]) (by simp) h).bufStates (by simp)).trans (hf ▸ State.updBuf_bufStates hb)

/-- SERVICE's free path moves its buffer, if it is in `LOAD`, to `EMPTY` (R182). -/
theorem State.retire_bufStates {b : Buffer} (hb : s.bufs[h]? = some b) (hl : b.state = .load) (ht : s.retire h = .ok t) :
    t.bufStates = s.bufStates.set h .empty := by
  obtain ⟨-, u, -, hu, rfl⟩ := State.retire_eq_ok.1 ht
  obtain ⟨d, hd⟩ : ∃ d, u.bufs[h]? = some d :=
    ⟨_, List.getElem?_eq_getElem ((State.unlink_arenas hu).1 ▸ lt_length_of_getElem? hb)⟩
  have hunlink : u.bufStates = s.bufStates := (State.unlink_writes (gs := [.links]) (by simp) hb hl hu).bufStates (by simp)
  rw [← hunlink, State.updBuf_bufStates_of_eq (f := fun b => { b with replyWhen := .never }) fun _ => rfl]
  exact State.pushFree_bufStates (f := fun b => { b with state := .empty }) hd rfl

/-- The new-buffer path of ACQUIRE moves the buffer it answers, now unlinked, from `EMPTY` to `LOAD` (R140). -/
theorem State.allocate_bufStates {pol : Polarity} {addr action : Word} {r : Reply} (hr : s.allocate pol addr action = .ok r) :
    (r.handle = none ∧ r.state.bufStates = s.bufStates) ∨
      ∃ h c, r.handle = some h ∧ s.bufStates[h]? = some .empty ∧ r.state.bufStates = s.bufStates.set h .load ∧
        r.state.bufs[h]? = some c ∧ c.linked = false := by
  obtain ⟨-, rfl⟩ | ⟨h, u, hu, -⟩ := State.allocate_eq_ok.1 hr
  · exact .inl ⟨rfl, rfl⟩
  obtain ⟨hhead, b, hb, he, -⟩ := State.popFree_eq_ok.1 hu
  obtain rfl : r = _ := Except.ok.inj (hr.symm.trans (State.allocate_of_free hhead hb he pol addr action))
  exact .inr ⟨h, takenBuffer pol addr action b, rfl, he ▸ State.bufStates_getElem? hb,
    State.updBuf_bufStates (s := s.setFreeHead b.fnext) hb, by simp [hb], rfl⟩

/-- ACQUIRE: what it answers is a live buffer, and no state moved, or a new one (R140). -/
theorem State.acquire_bufStates {pol : Polarity} {addr action : Word} {ow : Bool} {r : Reply}
    (hr : s.acquire pol addr action ow = .ok r) :
    r.state.bufStates = s.bufStates ∨
      ∃ h c, r.handle = some h ∧ s.bufStates[h]? = some .empty ∧ r.state.bufStates = s.bufStates.set h .load ∧
        r.state.bufs[h]? = some c ∧ c.linked = false := by
  obtain ⟨-, rfl⟩ | ⟨-, -, h, hf, hr⟩ | ⟨-, -, hr⟩ := State.acquire_eq_ok.1 hr
  · exact .inl rfl
  · obtain ⟨ring, -, hf⟩ := State.findLive_eq_ok.1 hf
    obtain ⟨-, b, hb, hlive⟩ := State.findLiveIn_some hf
    exact .inl ((State.reuse_writes (List.Subset.refl _) hb hlive hr).bufStates (by simp))
  · exact (State.allocate_bufStates hr).imp_left And.right

/-- EXTEND's append, seen from the buffers (R143). -/
theorem State.enqueue_bufs {p : Nat} (ht : s.enqueue h p = .ok t) :
    ∃ b, s.bufs[h]? = some b ∧ t.bufs = s.bufs.set h (queuedBuffer b p b) := by
  obtain ⟨b, hb, ⟨hp, rfl⟩ | ⟨hp, q, k, -, -, rfl⟩⟩ := State.enqueue_eq_ok.1 ht
  · refine ⟨b, hb, ?_⟩
    simp [modify_eq_set hb, queuedBuffer, hp]
  · refine ⟨b, hb, ?_⟩
    simp [modify_eq_set hb, queuedBuffer, hp]

/-- The buffer of a successful EXTEND whose record is `p` (R143, R144). -/
def extendedBuffer (a : ExtendArgs) (p : Nat) (b : Buffer) : Buffer :=
  { b with phead := if b.phead = none then some p else b.phead, ptail := some p, replyWhen := a.rw, replyToken := a.token,
           state := if b.state = .run then .reload else b.state }

theorem extendedBuffer_phead_ne_none {a : ExtendArgs} {p : Nat} {b : Buffer} : (extendedBuffer a p b).phead ≠ none := by
  cases h : b.phead <;> simp [extendedBuffer, h]

/-- EXTEND leaves the buffers as they are, or succeeds and writes its own (R143, R144). -/
theorem State.extend_bufs {a : ExtendArgs} {r : Reply} (hr : s.extend h a = .ok r) :
    (r.status ≠ .ok ∧ r.state.bufs = s.bufs) ∨
      (r.status = .ok ∧ ∃ b p, Accepts s h b ∧ r.state.bufs = s.bufs.set h (extendedBuffer a p b)) := by
  obtain ⟨-, rfl⟩ | ⟨-, -, rfl⟩ | ⟨-, -, rfl⟩ | ⟨-, -, -, rfl⟩ | ⟨hacc, -, p, u, v, d, hp, hv, hd, -, rfl⟩ :=
    State.extend_eq_ok.1 hr
  · exact .inl ⟨nofun, rfl⟩
  · exact .inl ⟨nofun, rfl⟩
  · exact .inl ⟨nofun, rfl⟩
  · exact .inl ⟨nofun, rfl⟩
  obtain ⟨b, hb⟩ := State.acceptsHandle_iff.1 hacc
  obtain ⟨-, k, -, rfl⟩ := State.popPfree_eq_ok.1 hp
  obtain ⟨b', hb', hv⟩ := State.enqueue_bufs hv
  obtain rfl : b = b' := Option.some.inj (hb.buffer.symm.trans hb')
  obtain rfl : queuedBuffer b p b = d := by
    rw [hv, List.getElem?_set_self (lt_length_of_getElem? hb')] at hd
    exact Option.some.inj hd
  refine .inr ⟨rfl, b, p, hb, ?_⟩
  rw [State.updBuf_bufs, hv, set_modify_same]
  rfl

/-- COMPLETE_REUSED moves no state (R148). -/
theorem State.completeReused_bufStates {r : Reply} (hr : s.completeReused h = .ok r) : r.state.bufStates = s.bufStates := by
  obtain ⟨b, -, -, rfl⟩ := State.completeReused_eq_ok.1 hr
  have hw : Writes [.isOpen, .latch] s ((s.updBuf h fun b => { b with isOpen := false }).releaseIfLoad b.state) :=
    (Writes.updBuf fun _ _ => .closed (by simp)).trans (Writes.releaseIfLoad (by simp) _)
  exact hw.bufStates (by simp)

/-- COMPLETE_NEW moves its buffer from `LOAD` to `RUN`, or to `EMPTY` when there is nothing to send (R147). -/
theorem State.completeNew_bufStates {r : Reply} (hr : s.completeNew h = .ok r) :
    ∃ b, s.bufs[h]? = some b ∧ b.state = .load ∧ r.state.bufStates = s.bufStates.set h (if b.phead = none then .empty else .run) := by
  obtain ⟨b, hb, hl, ⟨hp, rfl⟩ | ⟨hp, u, v, hu, hv, rfl⟩⟩ := State.completeNew_eq_ok.1 hr
  · refine ⟨b, hb, hl, ?_⟩
    rw [if_pos hp]
    exact State.pushFree_bufStates (f := fun b => { b with state := .empty, isOpen := false }) hb rfl
  · refine ⟨b, hb, hl, ?_⟩
    have hlink : v.bufStates = u.bufStates := (State.linkAfter_writes (gs := [.links]) (by simp) hv).bufStates (by simp)
    rw [if_neg hp, ← (State.loadHead_bufStates hu).2, ← hlink]
    exact State.updBuf_bufStates_of_eq (f := fun b => { b with isOpen := false }) fun _ => rfl

/-- CANCEL moves a new buffer from `LOAD` to `EMPTY`, and no other (R149, R150). -/
theorem State.cancel_bufStates {r : Reply} (hr : s.cancel h = .ok r) :
    r.state.bufStates = s.bufStates ∨ (s.bufStates[h]? = some .load ∧ r.state.bufStates = s.bufStates.set h .empty) := by
  obtain ⟨-, rfl⟩ | ⟨-, u, b, hu, hb, hend⟩ := State.cancel_eq_ok.1 hr
  · exact .inl rfl
  have hclosed : (u.updBuf h fun b => { b with replyWhen := .never, isOpen := false }).bufStates = s.bufStates := by
    rw [← (State.releaseQueue_writes (List.Subset.refl _) hu).bufStates (by simp)]
    exact State.updBuf_bufStates_of_eq (f := fun b => { b with replyWhen := .never, isOpen := false }) fun _ => rfl
  rw [← hclosed]
  obtain ⟨-, -, rfl⟩ | ⟨-, hl, rfl⟩ := hend
  · exact .inl ((Writes.releaseIfLoad (gs := [.latch]) (by simp) _).bufStates (by simp))
  · exact .inr ⟨hl ▸ State.bufStates_getElem? hb, State.pushFree_bufStates (f := fun b => { b with state := .empty }) hb rfl⟩

/-! The steps. -/

theorem State.acquire_statesMove {pol : Polarity} {addr action : Word} {ow : Bool} {r : Reply} {a : Args AcquireArgs}
    (hr : s.acquire pol addr action ow = .ok r) : StatesMove (.acquire a) s r.state := by
  obtain heq | ⟨h, c, -, ha, ht, -⟩ := State.acquire_bufStates hr
  · exact .of_eq heq
  · exact .of_set ha (.inr rfl) ht

theorem State.extend_statesMove {a : ExtendArgs} {r : Reply} {x : Args ExtendArgs} (hr : s.extend h a = .ok r) :
    StatesMove (.extend x) s r.state := by
  obtain ⟨-, heq⟩ | ⟨-, b, p, ⟨-, -, hb, -⟩, heq⟩ := State.extend_bufs hr
  · exact .of_eq (congrArg (List.map _) heq)
  · refine .of_set (State.bufStates_getElem? hb) ?_ ((congrArg (List.map _) heq).trans List.map_set)
    cases hs : b.state <;> simp [extendedBuffer, hs, transitionAllowed]

theorem State.complete_statesMove {r : Reply} {x : Args Byte} (hr : s.complete h = .ok r) : StatesMove (.complete x) s r.state := by
  obtain ⟨-, rfl⟩ | ⟨-, -, -, ⟨-, hr⟩ | ⟨-, hr⟩⟩ := State.complete_eq_ok.1 hr
  · exact .of_eq rfl
  · exact .of_eq (State.completeReused_bufStates hr)
  · obtain ⟨b, hb, hl, ht⟩ := State.completeNew_bufStates hr
    refine .of_set (State.bufStates_getElem? hb) (.inr ?_) ht
    rw [hl]
    split <;> rfl

theorem State.cancel_statesMove {r : Reply} {x : Args Byte} (hr : s.cancel h = .ok r) : StatesMove (.cancel x) s r.state := by
  obtain heq | ⟨ha, ht⟩ := State.cancel_bufStates hr
  · exact .of_eq heq
  · exact .of_set ha (.inr rfl) ht

/-- SUBMIT's COMPLETE, after its EXTEND of buffer `h`, so far `b` (R190): a linked buffer keeps its state, any other goes from `LOAD` to
`RUN`, because its queue is not empty. -/
theorem State.submitInto_bufStates {r : Reply} {a : SubmitArgs} (hr : s.submitInto a h t = .ok r) :
    r.state.bufStates = s.bufStates ∨ ∃ b, t.bufs[h]? = some b ∧
      ((b.linked = true ∧ r.state.bufStates = t.bufStates.set h (if b.state = .run then .reload else b.state)) ∨
        (b.linked = false ∧ b.state = .load ∧ r.state.bufStates = t.bufStates.set h .run)) := by
  obtain ⟨e, he, ⟨-, rfl⟩ | ⟨hst, c, hc, rfl⟩⟩ := State.submitInto_eq_ok.1 hr
  · exact .inl rfl
  obtain ⟨hne, -⟩ | ⟨-, b, p, ⟨h1, h2, hb, ho⟩, hbufs⟩ := State.extend_bufs he
  · exact absurd hst hne
  have hd : e.state.bufs[h]? = some (extendedBuffer (submitExtendArgs a h) p b) := by
    rw [hbufs, List.getElem?_set_self (lt_length_of_getElem? hb)]
  have hext : e.state.bufStates = t.bufStates.set h (if b.state = .run then .reload else b.state) :=
    (congrArg (List.map _) hbufs).trans List.map_set
  have hcfg : e.state.cfg = t.cfg := (State.extend_writes (List.Subset.refl _) he).constants.1
  have hacc : e.state.acceptsHandle h = true := State.acceptsHandle_iff.2 ⟨_, h1, hcfg ▸ h2, hd, ho⟩
  refine .inr ⟨b, hb, ?_⟩
  obtain ⟨hrej, -⟩ | ⟨-, d, hd', hend⟩ := State.complete_eq_ok.1 hc
  · exact absurd (hacc.symm.trans hrej) nofun
  obtain rfl := Option.some.inj (hd.symm.trans hd')
  obtain ⟨hl, hend⟩ | ⟨hl, hend⟩ := hend
  · exact .inl ⟨hl, (State.completeReused_bufStates hend).trans hext⟩
  · obtain ⟨d, hd', hload, hset⟩ := State.completeNew_bufStates hend
    obtain rfl := Option.some.inj (hd.symm.trans hd')
    refine .inr ⟨hl, ?_, by rw [hset, if_neg extendedBuffer_phead_ne_none, hext, List.set_set]⟩
    revert hload
    unfold extendedBuffer
    cases b.state <;> simp

/-- SUBMIT: a new buffer goes through `LOAD` to `RUN`; a live one is extended, or started if it is not linked (R190). -/
theorem State.submit_statesMove {r : Reply} {a : SubmitArgs} {x : Args SubmitArgs} (hr : s.submit a = .ok r) :
    StatesMove (.submit x) s r.state := by
  obtain ⟨-, rfl⟩ | ⟨-, -, rfl⟩ | ⟨-, -, rfl⟩ | ⟨-, -, q, hq, hend⟩ := State.submit_eq_ok.1 hr
  · exact .of_eq rfl
  · exact .of_eq rfl
  · exact .of_eq rfl
  obtain ⟨hnone, rfl⟩ | ⟨h, hh, hinto⟩ := hend
  · obtain heq | ⟨_, _, hsome, -⟩ := State.acquire_bufStates hq
    · exact .of_eq heq
    · cases hnone.symm.trans hsome
  obtain heq | ⟨b, hb, hmove⟩ := State.submitInto_bufStates hinto
  · exact .of_eq heq
  obtain heq | ⟨j, c, hj, hempty, hset, hc, hcl⟩ := State.acquire_bufStates hq
  · rw [heq] at hmove
    have hs : s.bufStates[h]? = some b.state := heq ▸ State.bufStates_getElem? hb
    obtain ⟨-, ht⟩ | ⟨-, hload, ht⟩ := hmove
    · refine .of_set hs ?_ ht
      cases b.state <;> simp [transitionAllowed]
    · exact .of_set hs (.inr (by rw [hload]; rfl)) ht
  · cases hh.symm.trans hj
    cases hb.symm.trans hc
    obtain ⟨hl, -⟩ | ⟨-, -, ht⟩ := hmove
    · cases hcl.symm.trans hl
    · exact .of_set hempty (.inr rfl) (by rw [ht, hset, List.set_set])

/-! The Timing Engine and the Manager Task. -/

/-- END_OF_ARRAY moves the buffer that was played from `RUN` or `RELOAD` to `LOAD` (R162). -/
theorem State.endOfArray_statesMove (ht : s.endOfArray h = .ok t) : StatesMove .tick s t := by
  obtain ⟨b, hb, -, rfl⟩ := State.endOfArray_eq_ok.1 ht
  refine .of_set (State.bufStates_getElem? hb) ?_ (State.updBuf_bufStates hb)
  obtain h | ⟨h | h, hload⟩ := afterTraversal_state b
  · exact .inl h
  · exact .inr (by rw [h, hload]; rfl)
  · exact .inr (by rw [h, hload]; rfl)

/-- Reading an array entry moves no state. -/
theorem State.entry_bufStates {i e : Nat} (ht : s.entry h i = .ok (e, t)) : t.bufStates = s.bufStates :=
  (State.entry_writes (gs := []) ht).bufStates (by simp)

theorem State.nextBit_statesMove (ht : s.nextBit = .ok t) : StatesMove .tick s t := by
  obtain ⟨-, rfl⟩ | ⟨-, -, e, u, hu, hend⟩ := State.nextBit_eq_ok.1 ht
  · exact .of_eq rfl
  have hbefore : u.bufStates = s.bufStates := State.entry_bufStates hu
  obtain ⟨-, rfl⟩ | ⟨-, ht⟩ := hend
  · exact .of_eq hbefore
  obtain ⟨v, n, e', w, hv, -, hw, -, rfl⟩ := State.endTraversal_eq_ok.1 ht
  have hafter : w.bufStates = v.bufStates := State.entry_bufStates (s := v.setPacketsSent (v.packetsSent + 1)) hw
  exact (State.endOfArray_statesMove hv).congr hbefore hafter

theorem tickBody_statesMove (ht : tickBody s = .ok t) : StatesMove .tick s t := by
  obtain ⟨n, k, -, ht⟩ := tickBody_eq_ok.1 ht
  obtain ⟨-, u, hu, rfl⟩ | ⟨-, rfl⟩ := State.afterCountdown_eq_ok.1 ht
  · exact (State.nextBit_statesMove hu).congr rfl rfl
  · exact .of_eq rfl

/-- MGR_INVOKE at one buffer moves it from `LOAD` to `RUN` or to `EMPTY` (R180, R182). -/
theorem State.attend_statesMove {b : Buffer} (hb : s.bufs[h]? = some b) (ht : s.attend h b = .ok t) : StatesMove .mgrInvoke s t := by
  obtain ⟨hl, -, ht⟩ | ⟨-, rfl⟩ := State.attend_eq_ok.1 ht
  · have hload : s.bufStates[h]? = some .load := hl ▸ State.bufStates_getElem? hb
    obtain ⟨-, -, ⟨-, ht⟩ | ⟨-, ht⟩⟩ := State.service_eq_ok.1 ht
    · exact .of_set hload (.inr rfl) (State.loadHead_bufStates ht).2
    · exact .of_set hload (.inr rfl) (State.retire_bufStates hb hl ht)
  · exact .of_eq rfl

theorem drainFrom_statesMove {n : Nat} {l : Option Nat} (ht : drainFrom n l s = .ok t) : StatesMove .mgrInvoke s t := by
  induction n generalizing l s with
  | zero =>
    unfold drainFrom at ht
    split at ht
    · cases ht; exact .of_eq rfl
    · cases ht
  | succ n ih =>
    match l with
    | none => exact absurd ht (drainFrom_none _ _ _)
    | some 0 => rw [drainFrom_zero] at ht; cases ht; exact .of_eq rfl
    | some (h + 1) =>
      obtain ⟨b, u, hb, -, hu, ht⟩ := (drainFrom_cons (Nat.succ_ne_zero h)).1 ht
      exact (State.attend_statesMove hb hu).trans_mgrInvoke (ih ht)

/-! Every step. -/

/-- A command of parsed operands moves the states as its operation does: its answer moves none. -/
theorem statesMove_of_reply {i : Instr} {x : Attempt Reply} {f : Reply → State} (ht : (do let r ← x; return f r) = Except.ok t)
    (hf : ∀ r, (f r).bufStates = r.state.bufStates) (hx : ∀ r, x = .ok r → StatesMove i s r.state) : StatesMove i s t := by
  obtain ⟨r, hr, ht⟩ := Attempt.bind_eq_ok.1 ht
  cases ht
  exact (hx r hr).congr rfl (hf r)

theorem bodyOf_statesMove {i : Instr} (ht : bodyOf i s = .ok t) : StatesMove i s t := by
  cases i with
  | acquire a =>
    cases a with
    | malformed _ => cases ht; exact .of_eq rfl
    | ok a => exact statesMove_of_reply ht (fun _ => rfl) fun _ => State.acquire_statesMove
  | extend a =>
    cases a with
    | malformed _ => cases ht; exact .of_eq rfl
    | ok a => exact statesMove_of_reply ht (fun _ => rfl) fun _ => State.extend_statesMove
  | complete a =>
    cases a with
    | malformed _ => cases ht; exact .of_eq rfl
    | ok h => exact statesMove_of_reply ht (fun _ => rfl) fun _ => State.complete_statesMove
  | cancel a =>
    cases a with
    | malformed _ => cases ht; exact .of_eq rfl
    | ok h => exact statesMove_of_reply ht (fun _ => rfl) fun _ => State.cancel_statesMove
  | submit a =>
    cases a with
    | malformed _ => cases ht; exact .of_eq rfl
    | ok a => exact statesMove_of_reply ht (fun _ => rfl) fun _ => State.submit_statesMove
  | tick => exact tickBody_statesMove ht
  | mgrInvoke =>
    obtain ⟨b, -, ht⟩ := Attempt.bind_eq_ok.1 ht
    exact drainFrom_statesMove (s := s.consume) ht
  | freeBuffers a | packetsSent a | resetScan a | scanNext a | badOpcode _ =>
    exact .of_eq ((bodyOf_writes (.inl (List.mem_cons_self ..)) (List.subset_cons_self ..) ht).bufStates (by simp [writes]))

/-- Settles O25: a step moves the state of one buffer by one row of the table, MGR_INVOKE of each buffer it services; a fatal fault's entry
moves none. -/
theorem bufferStatesMoveAsTheTableSays : Obligations.BufferStatesMoveAsTheTableSays := by
  intro i s t h b c hstep hb hc
  obtain ⟨-, -, ht | ⟨_, -, rfl⟩⟩ := exec_eq_next hstep
  · obtain ⟨a, ha, hmove⟩ := bodyOf_statesMove ht h c.state (State.bufStates_getElem? hc)
    cases ha.symm.trans (State.bufStates_getElem? (s := s.clearResult) hb)
    exact hmove
  · cases hb.symm.trans hc
    exact .inl rfl

end Sys2Proof.Machine
end

section
/-! PROOFS. ACQUIRE and EXTEND: their next states, and where they fail (R140 to R145, R151). -/

namespace Sys2Proof.Machine

variable {s t : State} {h : Nat}

/-! ACQUIRE. -/

theorem addressInRange_iff {pol : Polarity} {addr : Word} : addressInRange pol addr = true ↔ InRange pol addr := by
  cases pol <;> simp [addressInRange, InRange]

/-- ACQUIRE of a new buffer takes the one on top of the free list (R140). -/
theorem State.acquire_of_free {pol : Polarity} {addr action : Word} {ow : Bool} {b : Buffer} (hr : InRange pol addr)
    (hn : ow = true → NoLiveTarget s addr pol) (hh : s.pool.freeHead = some h) (hb : s.bufs[h]? = some b) (he : b.state = .empty) :
    s.acquire pol addr action ow = .ok { status := .ok, handle := some h, state :=
      { s with bufs := s.bufs.set h (takenBuffer pol addr action b), pool := { s.pool with freeHead := b.fnext } } } := by
  refine State.acquire_eq_ok.2 (.inr (.inr ⟨addressInRange_iff.2 hr, fun how => State.findLive_of_none (hn how), ?_⟩))
  rw [State.allocate_of_free hh hb he, State.updBuf, State.setFreeHead_bufs, modify_eq_set hb]
  rfl

/-- Settles O37: FIND_LIVE finds nothing, or is not asked, and POP_FREE gives the buffer on top. -/
theorem acquireTakesAFreeBuffer : Obligations.AcquireTakesAFreeBuffer := by
  intro s a h b hs hr hn hh hb he
  exact exec_acquire_of_ok hs (State.acquire_of_free (s := s.clearResult) hr hn hh hb he)

/-- The record of a live buffer that ACQUIRE returns (R140). -/
def reusedBuffer (action : Word) (b : Buffer) : Buffer :=
  { b with action := action, isOpen := true, replyWhen := .never, phead := none, ptail := none }

/-- ACQUIRE with overwrite of a live target returns the first, its queue released (R140, R141). -/
theorem State.acquire_of_live {pol : Polarity} {addr action : Word} {ow : Bool} {b : Buffer} {m : List Packet} {l : Option Nat}
    (hr : InRange pol addr) (how : ow = true) (hf : FirstLiveTarget s addr pol h b)
    (hrel : s.releaseQueue h = .ok (s.released h b m l)) : s.acquire pol addr action ow = .ok { status := .ok, handle := some h, state :=
      { s with bufs := s.bufs.set h (reusedBuffer action b), pkts := m, pool := { s.pool with pfreeHead := l } } } := by
  refine State.acquire_eq_ok.2 (.inr (.inl ⟨addressInRange_iff.2 hr, how, h, State.findLive_of_first hf,
    State.reuse_eq_ok.2 ⟨_, hrel, ?_⟩⟩))
  simp only [State.released, State.updBuf, set_modify_same]
  rfl

/-- Settles O38: FIND_LIVE finds the first live buffer, and its queue is released. -/
theorem acquireReturnsTheLiveBuffer : Obligations.AcquireReturnsTheLiveBuffer := by
  intro s a h b q hs hr how hf hq
  obtain ⟨m, l, hrel, hqueue⟩ := State.releaseQueue_eq_released (s := s.clearResult) hf.1 hq
  exact ⟨_, exec_acquire_of_ok hs (State.acquire_of_live hr how hf hrel), hqueue _ rfl rfl, rfl⟩

/-- Settles O39: the address is looked at first; then the free list is empty. -/
theorem acquireFailures : Obligations.AcquireFailures := by
  intro s a hs
  refine ⟨fun hr => ?_, fun hr hn hh => ?_⟩
  · have hout : addressInRange a.pol a.addr = false := Bool.eq_false_iff.2 (mt addressInRange_iff.1 hr)
    exact exec_acquire_of_ok hs (State.acquire_eq_ok.2 (.inl ⟨hout, rfl⟩))
  · exact exec_acquire_of_ok hs (State.acquire_eq_ok.2 (.inr (.inr ⟨addressInRange_iff.2 hr,
      fun how => State.findLive_of_none (s := s.clearResult) (hn how), State.allocate_eq_ok.2 (.inl ⟨hh, rfl⟩)⟩)))

/-! EXTEND. -/

/-- EXTEND's append to an empty queue (R143). -/
theorem State.enqueue_of_empty {p : Nat} {b : Buffer} (hb : s.bufs[h]? = some b) (hq : b.phead = none) :
    s.enqueue h p = .ok { s with bufs := s.bufs.set h (queuedBuffer b p b) } := by
  refine State.enqueue_eq_ok.2 ⟨b, hb, .inl ⟨hq, ?_⟩⟩
  simp [State.updBuf, modify_eq_set hb, queuedBuffer, hq]

/-- EXTEND's append behind the tail of a queue (R143). -/
theorem State.enqueue_of_queue {p q : Nat} {b : Buffer} (hb : s.bufs[h]? = some b) (hp : b.phead ≠ none) (hq : b.ptail = some q)
    (hlt : q < s.pkts.length) :
    s.enqueue h p = .ok { s with
      bufs := s.bufs.set h (queuedBuffer b p b)
      pkts := s.pkts.modify q fun k => { k with next := some p } } := by
  refine State.enqueue_eq_ok.2 ⟨b, hb, .inr ⟨hp, q, _, hq, List.getElem?_eq_getElem hlt, ?_⟩⟩
  simp [State.updBuf, State.updPkt, modify_eq_set hb, queuedBuffer, hp]

/-- EXTEND succeeds where it can take a record and append it (R143): the records after the append are `m`. -/
theorem State.extend_of_enqueue {a : ExtendArgs} {b : Buffer} {p : Nat} {k : Packet} {m : List Packet} (hacc : Accepts s h b)
    (hst : b.state.code.toNat < 5) (henc : (encodePacket s.cfg a.d a.pre.toNat a.post.toNat).isOk = true)
    (hp : s.pool.pfreeHead = some p) (hk : s.pkts[p]? = some k)
    (hm : State.enqueue { s with pkts := s.pkts.set p (extendPacket a), pool := { s.pool with pfreeHead := k.next } } h p =
      .ok { s with bufs := s.bufs.set h (queuedBuffer b p b), pkts := m, pool := { s.pool with pfreeHead := k.next } }) :
    s.extend h a = .ok { status := .ok, handle := some h, state :=
      { s with bufs := s.bufs.set h (extendedBuffer a p b), pkts := m, pool := { s.pool with pfreeHead := k.next } } } := by
  have hb := hacc.buffer
  obtain ⟨u, hu, hwrite⟩ := State.popPfree_write hp hk (extendPacket a)
  rw [← hwrite] at hm
  refine State.extend_eq_ok.2 (.inr (.inr (.inr (.inr ⟨hacc.acceptsHandle, henc, p, u, _, queuedBuffer b p b, hu, hm,
    List.getElem?_set_self (lt_length_of_getElem? hb), hst, ?_⟩))))
  simp only [State.updBuf, set_modify_same]
  rfl

/-- Settles O41: a record is taken from the pending free list, written, and put behind the queue, be it empty or not. -/
theorem extendAppendsThePacket : Obligations.ExtendAppendsThePacket := by
  intro s a b p k hs hacc hst henc hp hk htail
  have hb := hacc.buffer
  cases hq : b.phead with
  | none =>
    refine (exec_extend_of_ok hs (State.extend_of_enqueue (s := s.clearResult) hacc hst henc hp hk (State.enqueue_of_empty hb hq))).trans ?_
    simp only [extendedBuffer, hq]
    rfl
  | some r =>
    obtain ⟨q, hq', hlt⟩ := htail (by rw [hq]; nofun)
    refine (exec_extend_of_ok hs (State.extend_of_enqueue (s := s.clearResult) hacc hst henc hp hk
      (State.enqueue_of_queue hb (by rw [hq]; nofun) hq' (by simpa using hlt)))).trans ?_
    simp only [extendedBuffer, hq, hq']
    rfl

/-- ENCODE rejects an argument out of range (R111). -/
theorem encodePacket_of_args_false {c : Config} {d : List Byte} {pre post : Nat} (h : argsOk c d.length pre post = false) :
    encodePacket c d pre post = .badArg := by
  simp [encodePacket, h]

/-- Settles O42: ENCODE's answer is looked at first, then the pending free list. -/
theorem extendFailures : Obligations.ExtendFailures := by
  intro s a b hs hacc
  have hh : s.clearResult.acceptsHandle a.h.toNat = true := hacc.acceptsHandle
  refine ⟨fun hargs => ?_, fun henc => ?_, fun henc hp => ?_⟩
  · have hfalse : argsOk s.cfg a.d.length a.pre.toNat a.post.toNat = false := by
      rw [← Bool.not_eq_true, argsOk_iff]
      omega
    exact exec_extend_of_ok hs (State.extend_eq_ok.2 (.inr (.inl ⟨hh, encodePacket_of_args_false hfalse, rfl⟩)))
  · exact exec_extend_of_ok hs (State.extend_eq_ok.2 (.inr (.inr (.inl ⟨hh, henc, rfl⟩))))
  · exact exec_extend_of_ok hs (State.extend_eq_ok.2 (.inr (.inr (.inr (.inl ⟨hh, henc, hp, rfl⟩)))))

end Sys2Proof.Machine
end

section
/-! PROOFS. COMPLETE and CANCEL: their next states (R146 to R150), and that CANCEL undoes an ACQUIRE. -/

namespace Sys2Proof.Machine

variable {s t : State} {h : Nat}

/-! COMPLETE of a reused buffer. -/

/-- Closing a buffer in `LOAD` sets the latch (R40, R148, R150). -/
theorem State.releaseIfLoad_eq (s : State) (st : BufState) :
    s.releaseIfLoad st = { s with latch := s.latch || decide (st = .load) } := by
  unfold State.releaseIfLoad
  split <;> simp [State.release, *]

theorem expectLive_of_fixed {b : Buffer} (hf : b.state = .fixed) : expectLive b = raise .badState := by
  simp [expectLive, hf]

/-- COMPLETE of a linked live buffer closes it (R148). -/
theorem State.complete_of_live {b : Buffer} (hacc : Accepts s h b) (hl : b.linked = true) (hlive : b.state.live = true) :
    s.complete h = .ok { status := .ok, handle := some h, state :=
      { s with bufs := s.bufs.set h { b with isOpen := false }, latch := s.latch || decide (b.state = .load) } } := by
  have hb := hacc.buffer
  refine State.complete_eq_ok.2 (.inr ⟨hacc.acceptsHandle, b, hb, .inl ⟨hl, State.completeReused_eq_ok.2 ⟨b, hb, hlive, ?_⟩⟩⟩)
  rw [State.releaseIfLoad_eq, State.updBuf, modify_eq_set hb]

/-- COMPLETE of a linked buffer in `FIXED` is a broken invariant (R44, R215). -/
theorem State.complete_of_fixed {b : Buffer} (hacc : Accepts s h b) (hl : b.linked = true) (hf : b.state = .fixed) :
    s.complete h = raise .badState := by
  have hb := hacc.buffer
  have hreused : s.completeReused h = raise .badState :=
    Attempt.bind_eq_error.2 (.inr ⟨b, State.buf_eq_ok.2 hb, Attempt.bind_eq_error.2 (.inl (expectLive_of_fixed hf))⟩)
  unfold State.complete
  rw [if_neg (by simp [hacc.acceptsHandle])]
  exact Attempt.bind_eq_error.2 (.inr ⟨b, State.buf_eq_ok.2 hb, by rw [if_pos hl]; exact hreused⟩)

/-- Settles O45: a live buffer is closed where it is; `FIXED` is not live. -/
theorem completeClosesAReusedBuffer : Obligations.CompleteClosesAReusedBuffer := by
  intro s h b hs hacc hl
  refine ⟨fun hlive => ?_, fun hf => ?_⟩
  · exact exec_complete_of_ok hs (State.complete_of_live (s := s.clearResult) hacc hl hlive)
  · exact exec_complete_of_fatal hs (State.complete_of_fixed (s := s.clearResult) hacc hl hf)

/-! COMPLETE of a new buffer. -/

/-- COMPLETE of a new buffer that has no queue gives it back (R147). -/
theorem State.complete_of_empty {b : Buffer} (hacc : Accepts s h b) (hl : b.linked = false) (hst : b.state = .load)
    (hq : b.phead = none) :
    s.complete h = .ok { status := .badArg, handle := none, state :=
      { s with bufs := s.bufs.set h { b with state := .empty, isOpen := false, fnext := s.pool.freeHead },
               pool := { s.pool with freeHead := some h } } } := by
  have hb := hacc.buffer
  refine State.complete_eq_ok.2 (.inr ⟨hacc.acceptsHandle, b, hb,
    .inr ⟨hl, State.completeNew_eq_ok.2 ⟨b, hb, hst, .inl ⟨hq, ?_⟩⟩⟩⟩)
  simp only [State.updBuf, State.pushFree, State.setFreeHead, modify_eq_set hb, set_modify_same]

/-- Settles O44: there is nothing to encode, and the buffer goes back to the free list. -/
theorem completeReturnsAnEmptyBuffer : Obligations.CompleteReturnsAnEmptyBuffer := by
  intro s h b hs hacc hl hst hq
  exact exec_complete_of_ok hs (State.complete_of_empty (s := s.clearResult) hacc hl hst hq)

/-- LINK_AFTER's writes of the buffers other than its own (R133). -/
theorem linkedAfter_of_map {c n : Nat} {bc bn : Buffer} (hc : s.bufs[c]? = some bc) (hn : s.bufs[n]? = some bn)
    (ht : ∀ j ≠ h, t.bufs[j]? = s.bufs[j]?.map (linkedAt c n h j)) : LinkedAfter s t c n h := by
  intro j hj
  have htj := ht j hj
  cases hb : s.bufs[j]? with
  | none =>
    have hjc : j ≠ c := by rintro rfl; cases hb.symm.trans hc
    have hjn : j ≠ n := by rintro rfl; cases hb.symm.trans hn
    simp [SameButLinks, State.nextOf, State.prevOf, htj, hb, hjc, hjn]
  | some b => simp [SameButLinks, State.nextOf, State.prevOf, linkedAt, htj, hb, hj]

/-- LOAD_HEAD of a record whose bytes all hold a value (R136). -/
theorem State.loadHead_of_record {b : Buffer} {p : Nat} {k : Packet} {a : List Nat} (hb : s.bufs[h]? = some b) (hst : b.state = .load)
    (hp : b.phead = some p) (hk : s.pkts[p]? = some k) (hlen : k.bytes.length = k.len.toNat)
    (ha : encodePacket s.cfg k.bytes k.pre.toNat k.post.toNat = .ok a) :
    s.loadHead h = .ok { s with
      bufs := s.bufs.set h (loadedBuffer b k a b)
      pkts := s.pkts.set p { k with next := s.pool.pfreeHead }
      pool := { s.pool with pfreeHead := some p }
      history := s.history ++ if k.next = none ∧ b.replyWhen = .atStart then [.reply b.replyToken] else [] } := by
  have hcmd : s.command k = k.bytes := by rw [State.command_of_le hlen.ge, List.take_of_length_le hlen.le]
  have hcount : k.absent = 0 := Packet.absent_of_le hlen.ge
  refine State.loadHead_eq_ok.2 ⟨b, p, k, a, hb, hst, hp, hk, by rw [hcmd]; exact ha, ?_⟩
  rw [State.loaded_eq, hcount, State.countOpen_zero]
  simp only [State.setHistory, State.pushPfree, State.updPkt, State.setPfreeHead, State.updBuf, modify_eq_set hb, modify_eq_set hk]

/-- COMPLETE of a new buffer that has a queue: LOAD_HEAD, then LINK_AFTER the buffer being played (R147). -/
theorem State.complete_of_load {u v : State} {b : Buffer} (hacc : Accepts s h b) (hl : b.linked = false) (hst : b.state = .load)
    (hq : b.phead ≠ none) (hu : s.loadHead h = .ok u) (hv : u.linkAfter u.eng.cursor h = .ok v) :
    s.complete h = .ok { status := .ok, handle := some h, state := v.updBuf h fun b => { b with isOpen := false } } :=
  State.complete_eq_ok.2 (.inr ⟨hacc.acceptsHandle, b, hacc.buffer,
    .inr ⟨hl, State.completeNew_eq_ok.2 ⟨b, hacc.buffer, hst, .inr ⟨hq, u, v, hu, hv, rfl⟩⟩⟩⟩)

/-- Settles O43: LOAD_HEAD writes the buffer, its record and the reply; LINK_AFTER writes links only; then the buffer is closed. -/
theorem completeStartsANewBuffer : Obligations.CompleteStartsANewBuffer := by
  intro s h b p k a n cb nb hs hacc hl hst hp hk hlen ha hc hcn hn hhc hhn
  obtain ⟨u, hu, hueq⟩ : ∃ u, s.clearResult.loadHead h.toNat = .ok u ∧ u = _ :=
    ⟨_, State.loadHead_of_record (s := s.clearResult) hacc.buffer hst hp hk hlen ha, rfl⟩
  have hcur : u.eng.cursor = s.eng.cursor := by rw [hueq]; rfl
  have hself : u.bufs[h.toNat]? = some (loadedBuffer b k a b) := by
    rw [hueq]
    exact List.getElem?_set_self (lt_length_of_getElem? hacc.buffer)
  have hother : ∀ j, h.toNat ≠ j → u.bufs[j]? = s.bufs[j]? := fun j hj => by
    rw [hueq]
    exact List.getElem?_set_ne hj
  obtain ⟨v, hv, hveq, hvbufs⟩ := State.linkAfter_of_next ((hother _ hhc).trans hc) hcn ((hother _ hhn).trans hn) hhc hhn
  refine ⟨_, exec_complete_of_ok hs (State.complete_of_load hacc hl hst (by rw [hp]; nofun) hu (by rw [hcur]; exact hv)),
    linkedAfter_of_map hc hn fun j hj => ?_, ?_, ?_⟩
  · rw [← hother j hj.symm, ← hvbufs]
    exact List.getElem?_modify_ne _ _ hj.symm
  · simp [Reply.statusOnly, hvbufs, hself, linkedAt, loadedBuffer, hhc, hhn]
  · obtain ⟨l, rfl⟩ : ∃ l, v = { u with bufs := l } := ⟨_, hveq⟩
    subst hueq
    rfl

/-! CANCEL. -/

/-- A buffer that CANCEL has closed, its queue released (R149). -/
def cancelledBuffer (b : Buffer) : Buffer := { b with phead := none, ptail := none, replyWhen := .never, isOpen := false }

/-- CANCEL's buffer once it is closed (R149). -/
theorem State.released_closed {b : Buffer} {m : List Packet} {l : Option Nat} :
    ((s.released h b m l).updBuf h fun b => { b with replyWhen := .never, isOpen := false }) =
      { s with bufs := s.bufs.set h (cancelledBuffer b), pkts := m, pool := { s.pool with pfreeHead := l } } := by
  simp only [State.released, State.updBuf, set_modify_same]
  rfl

theorem State.released_closed_getElem? {b : Buffer} {m : List Packet} {l : Option Nat} (hb : s.bufs[h]? = some b) :
    ((s.released h b m l).updBuf h fun b => { b with replyWhen := .never, isOpen := false }).bufs[h]? = some (cancelledBuffer b) := by
  rw [State.released_closed]
  exact List.getElem?_set_self (lt_length_of_getElem? hb)

/-- CANCEL's end at a linked buffer in `FIXED`, a broken invariant (R44, R215). -/
theorem State.cancelEnd_of_fixed {b : Buffer} (hl : b.linked = true) (hf : b.state = .fixed) : s.cancelEnd h b = raise .badState :=
  (if_pos hl).trans (Attempt.bind_eq_error.2 (.inl (expectLive_of_fixed hf)))

section
variable {b : Buffer} {m : List Packet} {l : Option Nat} (hacc : Accepts s h b)
  (hrel : s.releaseQueue h = .ok (s.released h b m l))
include hacc hrel

/-- CANCEL of a linked live buffer closes it (R150). -/
theorem State.cancel_of_live (hl : b.linked = true) (hlive : b.state.live = true) :
    s.cancel h = .ok { status := .ok, handle := some h, state :=
      { s with bufs := s.bufs.set h (cancelledBuffer b), pkts := m, pool := { s.pool with pfreeHead := l },
               latch := s.latch || decide (b.state = .load) } } := by
  refine State.cancel_eq_ok.2 (.inr ⟨hacc.acceptsHandle, _, cancelledBuffer b, hrel, State.released_closed_getElem? hacc.buffer,
    .inl ⟨hl, hlive, ?_⟩⟩)
  rw [State.released_closed, State.releaseIfLoad_eq]
  rfl

/-- CANCEL of a new buffer puts it on top of the free list (R149). -/
theorem State.cancel_of_new (hl : b.linked = false) (hst : b.state = .load) :
    s.cancel h = .ok { status := .ok, handle := some h, state :=
      { s with bufs := s.bufs.set h { cancelledBuffer b with state := .empty, fnext := s.pool.freeHead }, pkts := m,
               pool := { freeHead := some h, pfreeHead := l } } } := by
  refine State.cancel_eq_ok.2 (.inr ⟨hacc.acceptsHandle, _, cancelledBuffer b, hrel, State.released_closed_getElem? hacc.buffer,
    .inr ⟨hl, hst, ?_⟩⟩)
  rw [State.released_closed]
  simp only [State.updBuf, State.pushFree, State.setFreeHead, set_modify_same]

/-- CANCEL of a linked buffer in `FIXED` is a broken invariant (R44, R215). -/
theorem State.cancel_of_fixed (hl : b.linked = true) (hf : b.state = .fixed) : s.cancel h = raise .badState := by
  have hread := State.buf_eq_ok.2 (State.released_closed_getElem? (m := m) (l := l) hacc.buffer)
  unfold State.cancel
  rw [if_neg (by simp [hacc.acceptsHandle])]
  exact Attempt.bind_eq_error.2 (.inr ⟨_, hrel, Attempt.bind_eq_error.2 (.inr ⟨_, hread,
    Attempt.bind_eq_error.2 (.inl (State.cancelEnd_of_fixed (b := cancelledBuffer b) hl hf))⟩)⟩)

end

/-- Settles O46: the queue is released, and the buffer goes back to the free list. -/
theorem cancelFreesANewBuffer : Obligations.CancelFreesANewBuffer := by
  intro s h b q hs hacc hl hst hq
  obtain ⟨m, l, hrel, hqueue⟩ := State.releaseQueue_eq_released (s := s.clearResult) hacc.buffer hq
  exact ⟨_, exec_cancel_of_ok hs (State.cancel_of_new hacc hrel hl hst), hqueue _ rfl rfl, rfl⟩

/-- Settles O47: the queue is released, and a live buffer is closed where it is; `FIXED` is not live. -/
theorem cancelClosesAReusedBuffer : Obligations.CancelClosesAReusedBuffer := by
  intro s h b q hs hacc hl hq
  obtain ⟨m, l, hrel, hqueue⟩ := State.releaseQueue_eq_released (s := s.clearResult) hacc.buffer hq
  refine ⟨fun hlive => ?_, fun hf => ?_⟩
  · exact ⟨_, exec_cancel_of_ok hs (State.cancel_of_live hacc hrel hl hlive), hqueue _ rfl rfl, rfl⟩
  · exact exec_cancel_of_fatal hs (State.cancel_of_fixed hacc hrel hl hf)

/-- A field that a record set keeps is the same field of the list. -/
theorem map_set_of_eq {α β : Type} {π : α → β} {l : List α} {b d : α} (hb : l[h]? = some b) (hd : π d = π b) :
    (l.set h d).map π = l.map π := by
  obtain ⟨hlt, rfl⟩ := List.getElem?_eq_some_iff.1 hb
  rw [List.map_set, hd, ← List.map_set, List.set_getElem_self]

/-- CANCEL of a new buffer that has no queue (R149). -/
theorem exec_cancel_of_empty {h : Byte} {b : Buffer} (hs : s.halted = false) (hacc : Accepts s h.toNat b) (hl : b.linked = false)
    (hst : b.state = .load) (hq : b.phead = none) :
    exec (.cancel (.ok h)) s =
      .next { s with bufs := s.bufs.set h.toNat { cancelledBuffer b with state := .empty, fnext := s.pool.freeHead }
                     pool := { s.pool with freeHead := some h.toNat }
                     result := [0] } :=
  exec_cancel_of_ok hs (State.cancel_of_new (s := s.clearResult) hacc (State.releaseQueue_of_empty hacc.buffer hq) hl hst)

/-- Settles O48: a new buffer has no queue, so that CANCEL puts it back on the free list where ACQUIRE took it and writes nothing else. -/
theorem cancelUndoesAcquire : Obligations.CancelUndoesAcquire := by
  intro s t a h b hs hr hn hh hb he h1 h2 hmax ht
  rw [acquireTakesAFreeBuffer s a h b hs hr hn hh hb he] at ht
  obtain rfl := Host.Outcome.next.inj ht
  have hbyte : (BitVec.ofNat 8 h).toNat = h := by
    rw [BitVec.toNat_ofNat]
    omega
  have htaken : (s.bufs.set h (takenBuffer a.pol a.addr a.action b))[h]? = some (takenBuffer a.pol a.addr a.action b) :=
    List.getElem?_set_self (lt_length_of_getElem? hb)
  refine ⟨_, exec_cancel_of_empty (b := takenBuffer a.pol a.addr a.action b) hs
    (by rw [hbyte]; exact ⟨h1, h2, htaken, rfl⟩) rfl rfl rfl, rfl, ?_, rfl, rfl, rfl, ?_⟩
  · rw [hbyte, ← hh]
  · simp only [hbyte, List.set_set]
    exact ⟨map_set_of_eq hb rfl, map_set_of_eq hb he.symm, fun j hj => List.getElem?_set_ne (Ne.symm hj)⟩

end Sys2Proof.Machine
end

section
/-! PROOFS. TICK inside an array, and at its end (R160 to R165): the next states, and where it takes its fatal faults (R215). -/

namespace Sys2Proof.Machine

variable {s : State} {n : Nat} {b c : Buffer}

/-! The second half of a bit. -/

/-- Settles O30: the first half of a bit ends in the middle of it. -/
theorem tickEndsTheFirstHalf : Obligations.TickEndsTheFirstHalf :=
  fun _ hs hhalf => exec_tick_firstHalf hs hhalf

theorem entryBit_eq_decide (i : Nat) : entryBit i = decide (i % 2 = 0) := rfl

/-- The half-bit interval of an entry's bits (R39, R88). -/
theorem halfBitTicks_entryBit (cfg : Config) (i : Nat) :
    halfBitTicks cfg (entryBit i) = if i % 2 = 0 then cfg.halfOneTicks else cfg.halfZeroTicks := by
  rw [halfBitTicks, entryBit_eq_decide]
  simp only [decide_eq_true_eq]

/-- Settles O31: NEXT_BIT answers with the entry's next bit, or with the first bit of the next entry. -/
theorem tickMovesWithinTheArray : Obligations.TickMovesWithinTheArray := by
  intro s hs hhalf
  refine ⟨fun hleft => ?_, fun hleft hidx b e hb he hne => ?_⟩
  · exact exec_tick_secondHalf hs hhalf (State.nextBit_eq_ok.2 (.inl ⟨hleft, rfl⟩))
  · have hentry : s.clearResult.toggleTrack.entry s.eng.cursor (s.eng.idx + 1) = .ok (e, s.clearResult.toggleTrack) :=
      State.entry_of_some hb he
    rw [← halfBitTicks_entryBit]
    exact exec_tick_secondHalf hs hhalf (State.nextBit_eq_ok.2 (.inr ⟨hleft, hidx, e, _, hentry, .inl ⟨hne, rfl⟩⟩))

/-- A fatal fault of NEXT_BIT discards the whole TICK (R216). -/
theorem exec_tick_of_nextBit_fatal {f : FatalCode} (hs : s.halted = false) (hhalf : s.eng.half = 1)
    (hf : s.clearResult.toggleTrack.nextBit = .error (.fatal f)) : exec .tick s = .next (s.clearResult.fatalEntry f) := by
  refine runStep_of_fatal hs ?_
  rw [tickBody, State.countdown_of_one (s := s.clearResult.toggleTrack) hhalf]
  exact Attempt.bind_eq_error.2 (.inl hf)

/-! NEXT_BIT at the end of an entry. -/

/-- Past the last entry an array can have (R161). -/
theorem State.nextBit_of_lastEntry (hleft : s.eng.left = 0) (hidx : s.cfg.maxTransitions ≤ s.eng.idx + 1) :
    s.nextBit = .error (.fatal .index) := by
  rw [State.nextBit, if_neg (by omega), if_pos hidx]
  rfl

/-- At a terminator NEXT_BIT ends the traversal (R161). -/
theorem State.nextBit_of_terminator (hleft : s.eng.left = 0) (hidx : s.eng.idx + 1 < s.cfg.maxTransitions)
    (hb : s.bufs[s.eng.cursor]? = some b) (he : b.arr[s.eng.idx + 1]? = some 0) :
    s.nextBit = (s.setEng { s.eng with idx := s.eng.idx + 1 }).endTraversal := by
  rw [State.nextBit, if_neg (by omega), if_neg (by omega)]
  show (s.entry s.eng.cursor (s.eng.idx + 1) >>= _) = _
  rw [State.entry_of_some hb he]
  rfl

/-! The end of a traversal. -/

/-- The state in which NEXT_RADIABLE looks for the next array, `b` being the buffer played: END_OF_ARRAY has applied its repeat policy, and
the packet is counted (R161, R162). -/
def State.traversalOver (s : State) (b : Buffer) : State :=
  { s with bufs := s.bufs.set s.eng.cursor (afterTraversal b), latch := s.latch || decide ((afterTraversal b).state = .load),
           packetsSent := s.packetsSent + 1 }

theorem State.traversalOver_buf (hb : s.bufs[s.eng.cursor]? = some b) :
    (s.traversalOver b).bufs[s.eng.cursor]? = some (afterTraversal b) :=
  List.getElem?_set_self (lt_length_of_getElem? hb)

theorem State.traversalOver_buf_ne (hn : n ≠ s.eng.cursor) : (s.traversalOver b).bufs[n]? = s.bufs[n]? :=
  List.getElem?_set_ne (Ne.symm hn)

theorem afterTraversal_next (b : Buffer) : (afterTraversal b).next = b.next := by rw [afterTraversal_eq]

/-- The end of a traversal changes no link. -/
theorem State.traversalOver_nextOf (hb : s.bufs[s.eng.cursor]? = some b) (j : Nat) : (s.traversalOver b).nextOf j = s.nextOf j := by
  by_cases hj : j = s.eng.cursor
  · rw [hj, State.nextOf_of_buf (State.traversalOver_buf hb), State.nextOf_of_buf hb, afterTraversal_next]
  · rw [State.nextOf, State.nextOf, State.traversalOver_buf_ne hj]

/-- END_OF_ARRAY of a buffer that may be played (R162); the packet is not counted yet. -/
theorem State.endOfArray_of_radiable (hb : s.bufs[s.eng.cursor]? = some b) (hrad : b.state.radiable = true) :
    s.endOfArray s.eng.cursor = .ok ((s.traversalOver b).setPacketsSent s.packetsSent) := by
  refine State.endOfArray_eq_ok.2 ⟨b, hb, hrad, ?_⟩
  rw [State.updBuf, modify_eq_set hb]
  rfl

/-- END_OF_ARRAY of a buffer that may not be played (R162). -/
theorem State.endOfArray_of_not_radiable {h : Nat} (hb : s.bufs[h]? = some b) (hrad : b.state.radiable = false) :
    s.endOfArray h = raise .badState := by
  refine Attempt.bind_eq_error.2 (.inr ⟨b, State.buf_eq_ok.2 hb, ?_⟩)
  revert hrad
  cases b.state <;> simp [BufState.radiable]

/-- NEXT_RADIABLE starts from the link of the buffer played, as it was (R163). -/
theorem State.traversalOver_nextRadiable (hb : s.bufs[s.eng.cursor]? = some b) :
    (s.traversalOver b).nextRadiable s.eng.cursor = (s.traversalOver b).radiableFrom s.cfg.numBuffers b.next := by
  rw [State.nextRadiable, State.buf_eq_ok.2 (State.traversalOver_buf hb)]
  exact congrArg ((s.traversalOver b).radiableFrom s.cfg.numBuffers) (afterTraversal_next b)

/-- The move to bit 0 of the buffer that NEXT_RADIABLE finds (R161, R165). -/
theorem State.endTraversal_of_found {e : Nat} (hb : s.bufs[s.eng.cursor]? = some b) (hrad : b.state.radiable = true)
    (hn : (s.traversalOver b).radiableFrom s.cfg.numBuffers b.next = .ok n) (hc : (s.traversalOver b).bufs[n]? = some c)
    (he : c.arr[0]? = some e) (hne : e ≠ 0) :
    s.endTraversal = .ok ((s.traversalOver b).setEng { s.eng with cursor := n, idx := 0, left := e - 1, bitval := true }) :=
  State.endTraversal_eq_ok.2 ⟨_, n, e, s.traversalOver b, State.endOfArray_of_radiable hb hrad,
    (State.traversalOver_nextRadiable hb).trans hn, State.entry_of_some hc he, hne, rfl⟩

/-- The array that NEXT_RADIABLE finds is empty (R161, R215). -/
theorem State.endTraversal_of_emptyArray (hb : s.bufs[s.eng.cursor]? = some b) (hrad : b.state.radiable = true)
    (hn : (s.traversalOver b).radiableFrom s.cfg.numBuffers b.next = .ok n) (hc : (s.traversalOver b).bufs[n]? = some c)
    (he : c.arr[0]? = some 0) : s.endTraversal = raise .emptyArray :=
  Attempt.bind_eq_error.2 (.inr ⟨_, State.endOfArray_of_radiable hb hrad,
    Attempt.bind_eq_error.2 (.inr ⟨n, (State.traversalOver_nextRadiable hb).trans hn,
      Attempt.bind_eq_error.2 (.inr ⟨(0, s.traversalOver b), State.entry_of_some hc he, rfl⟩)⟩)⟩)

/-- NEXT_RADIABLE takes a fatal fault (R163). -/
theorem State.endTraversal_of_search_fatal {f : FatalCode} (hb : s.bufs[s.eng.cursor]? = some b) (hrad : b.state.radiable = true)
    (hf : (s.traversalOver b).radiableFrom s.cfg.numBuffers b.next = raise f) : s.endTraversal = raise f :=
  Attempt.bind_eq_error.2 (.inr ⟨_, State.endOfArray_of_radiable hb hrad,
    Attempt.bind_eq_error.2 (.inl ((State.traversalOver_nextRadiable hb).trans hf))⟩)

/-! Where NEXT_RADIABLE fails at its first link. -/

/-- A link that leads to no buffer of the ring (R62, R163, I17). -/
theorem State.radiableFrom_of_broken {l : Option Nat} (m : Nat)
    (hl : l = none ∨ (∃ n, l = some n ∧ s.bufs[n]? = none) ∨ ∃ n c, l = some n ∧ s.bufs[n]? = some c ∧ c.state = .empty) :
    s.radiableFrom m l = raise .ring := by
  cases m with
  | zero => rfl
  | succ m =>
    obtain rfl | ⟨n, rfl, hn⟩ | ⟨n, c, rfl, hc, hst⟩ := hl
    · rfl
    · simp [State.radiableFrom, handleOf, State.buf, hn, raise, bind, Except.bind]
    · simp [State.radiableFrom, handleOf, State.buf, hc, hst, bind, Except.bind]

/-- A link that leads to a buffer in a reserved state (R22, I7). -/
theorem State.radiableFrom_of_reserved {m : Nat} (hm : 0 < m) (hc : s.bufs[n]? = some c) (hst : 5 ≤ c.state.code.toNat) :
    s.radiableFrom m (some n) = raise .badState := by
  obtain ⟨m, rfl⟩ := Nat.exists_eq_succ_of_ne_zero hm.ne'
  refine Attempt.bind_eq_error.2 (.inr ⟨n, rfl, Attempt.bind_eq_error.2 (.inr ⟨c, State.buf_eq_ok.2 hc, ?_⟩)⟩)
  revert hst
  cases c.state <;> simp [BufState.code]

/-- Codes 5 to 7 are no state of a radiable buffer (R22, R163). -/
theorem BufState.code_lt_of_radiable {a : BufState} (h : a.radiable = true) : a.code.toNat < 5 := by
  revert h
  cases a <;> simp [BufState.radiable, BufState.code]

/-! TICK at a terminator. -/

/-- The state in which TICK has read the terminator of the array being played (R160, R161). -/
def State.terminatorRead (s : State) : State :=
  s.clearResult.toggleTrack.setEng { s.clearResult.toggleTrack.eng with idx := s.eng.idx + 1 }

/-- The engine is at the end of the last bit of buffer `b`'s array: the terminator comes next (R161). -/
structure AtTerminator (s : State) (b : Buffer) : Prop where
  running : s.halted = false
  half : s.eng.half = 1
  left : s.eng.left = 0
  inBounds : s.eng.idx + 1 < s.cfg.maxTransitions
  buffer : s.bufs[s.eng.cursor]? = some b
  terminator : b.arr[s.eng.idx + 1]? = some 0

theorem AtTerminator.nextBit (h : AtTerminator s b) : s.clearResult.toggleTrack.nextBit = s.terminatorRead.endTraversal :=
  State.nextBit_of_terminator (s := s.clearResult.toggleTrack) h.left h.inBounds h.buffer h.terminator

/-- Settles O32: NEXT_RADIABLE finds the buffer after those passed, and its first bit starts. -/
theorem tickEndsTheTraversal : Obligations.TickEndsTheTraversal := by
  intro s b passed n c e hs hhalf hleft hidx hb hterm hrad hchain hlen hload hc hcrad he hne
  have hat : AtTerminator s b := ⟨hs, hhalf, hleft, hidx, hb, hterm⟩
  have hfound : (s.terminatorRead.traversalOver b).radiableFrom s.cfg.numBuffers b.next = .ok n :=
    State.radiableFrom_of_chain (hchain.congr fun j _ => (State.traversalOver_nextOf (s := s.terminatorRead) hb j).symm)
      hload hc hcrad hlen
  exact exec_tick_secondHalf hs hhalf
    (hat.nextBit.trans (State.endTraversal_of_found (s := s.terminatorRead) hb hrad hfound hc he hne))

/-! TICK's fatal faults. -/

/-- A fatal fault at the end of a traversal is TICK's. -/
theorem AtTerminator.exec_tick_of_fatal {f : FatalCode} (h : AtTerminator s b) (hf : s.terminatorRead.endTraversal = raise f) :
    exec .tick s = .next (s.clearResult.fatalEntry f) :=
  exec_tick_of_nextBit_fatal h.running h.half (h.nextBit.trans hf)

/-- NEXT_RADIABLE takes a fatal fault at the terminator. -/
theorem AtTerminator.exec_tick_of_search_fatal {f : FatalCode} (h : AtTerminator s b) (hrad : b.state.radiable = true)
    (hf : (s.terminatorRead.traversalOver b).radiableFrom s.cfg.numBuffers b.next = raise f) :
    exec .tick s = .next (s.clearResult.fatalEntry f) :=
  h.exec_tick_of_fatal (State.endTraversal_of_search_fatal (s := s.terminatorRead) h.buffer hrad hf)

/-- A buffer other than the one played is as it was. -/
theorem State.terminatorRead_traversalOver_buf_ne (hn : n ≠ s.eng.cursor) : (s.terminatorRead.traversalOver b).bufs[n]? = s.bufs[n]? :=
  State.traversalOver_buf_ne (s := s.terminatorRead) hn

/-- A buffer that may not be played is no traversal's (R162, R215). -/
theorem AtTerminator.exec_tick_of_not_radiable (h : AtTerminator s b) (hrad : b.state.radiable = false) :
    exec .tick s = .next (s.clearResult.fatalEntry .badState) :=
  h.exec_tick_of_fatal (Attempt.bind_eq_error.2 (.inl (State.endOfArray_of_not_radiable (s := s.terminatorRead) h.buffer hrad)))

/-- The link of the buffer played leads to no buffer of the ring (R62, R163). -/
theorem AtTerminator.exec_tick_of_broken (h : AtTerminator s b) (hrad : b.state.radiable = true)
    (hl : b.next = none ∨ (∃ n, b.next = some n ∧ s.bufs[n]? = none) ∨
      ∃ n c, b.next = some n ∧ s.bufs[n]? = some c ∧ c.state = .empty) :
    exec .tick s = .next (s.clearResult.fatalEntry .ring) := by
  refine h.exec_tick_of_search_fatal hrad (State.radiableFrom_of_broken _ ?_)
  refine hl.imp_right (Or.imp (Exists.imp fun n => ?_) (Exists.imp fun n => Exists.imp fun c => ?_))
  · rintro ⟨hnext, hnone⟩
    have hn : n ≠ s.eng.cursor := by
      rintro rfl
      cases hnone.symm.trans h.buffer
    exact ⟨hnext, (State.terminatorRead_traversalOver_buf_ne hn).trans hnone⟩
  · rintro ⟨hnext, hc, hst⟩
    have hn : n ≠ s.eng.cursor := by
      rintro rfl
      cases hc.symm.trans h.buffer
      rw [hst] at hrad
      cases hrad
    exact ⟨hnext, (State.terminatorRead_traversalOver_buf_ne hn).trans hc, hst⟩

/-- The link of the buffer played leads to a buffer in a reserved state (R22, I7). -/
theorem AtTerminator.exec_tick_of_reserved (h : AtTerminator s b) (hrad : b.state.radiable = true) (hbufs : 0 < s.cfg.numBuffers)
    (hnext : b.next = some n) (hc : s.bufs[n]? = some c) (hst : 5 ≤ c.state.code.toNat) :
    exec .tick s = .next (s.clearResult.fatalEntry .badState) := by
  have hn : n ≠ s.eng.cursor := by
    rintro rfl
    cases hc.symm.trans h.buffer
    exact absurd (BufState.code_lt_of_radiable hrad) (by omega)
  refine h.exec_tick_of_search_fatal hrad ?_
  rw [hnext]
  exact State.radiableFrom_of_reserved hbufs ((State.terminatorRead_traversalOver_buf_ne hn).trans hc) hst

/-- The next radiable buffer has an empty array (R161, R215). -/
theorem AtTerminator.exec_tick_of_emptyArray (h : AtTerminator s b) (hrad : b.state.radiable = true) (hbufs : 0 < s.cfg.numBuffers)
    (hnext : b.next = some n) (hn : n ≠ s.eng.cursor) (hc : s.bufs[n]? = some c) (hcrad : c.state.radiable = true)
    (he : c.arr[0]? = some 0) : exec .tick s = .next (s.clearResult.fatalEntry .emptyArray) := by
  have hc' := (State.terminatorRead_traversalOver_buf_ne (b := b) hn).trans hc
  exact h.exec_tick_of_fatal (State.endTraversal_of_emptyArray (s := s.terminatorRead) h.buffer hrad
    (State.radiableFrom_of_chain (passed := []) hnext (by simp) hc' hcrad hbufs) hc' he)

/-- Settles O14: NEXT_BIT past the last entry, and at a terminator END_OF_ARRAY, NEXT_RADIABLE and the read of the next array. -/
theorem tickFatalCauses : Obligations.TickFatalCauses := by
  intro s hs hhalf hleft
  refine ⟨fun hidx => ?_, fun hidx b hb hterm => ?_⟩
  · exact exec_tick_of_nextBit_fatal hs hhalf (State.nextBit_of_lastEntry (s := s.clearResult.toggleTrack) hleft hidx)
  · have hat : AtTerminator s b := ⟨hs, hhalf, hleft, hidx, hb, hterm⟩
    exact ⟨hat.exec_tick_of_not_radiable, fun hrad => ⟨hat.exec_tick_of_broken hrad,
      fun _ _ hbufs hnext hc hst => hat.exec_tick_of_reserved hrad hbufs hnext hc hst,
      fun _ _ hbufs hnext hn hc hcrad he => hat.exec_tick_of_emptyArray hrad hbufs hnext hn hc hcrad he⟩⟩

end Sys2Proof.Machine
end

section
/-! PROOFS. The lists MGR_INVOKE leaves: what it releases, one buffer and one record after another (R130, R131), and the ring in both
directions (R29). -/

namespace Sys2Proof.Machine

variable {s t u : State} {h p : Nat}

/-! Released buffers. -/

theorem BuffersReleased.nil (hn : ∀ j, t.fnextOf j = s.fnextOf j) (hh : t.pool.freeHead = s.pool.freeHead) :
    BuffersReleased s t [] := by
  intro free hf _
  rw [hh]
  exact hf.congr fun j _ => (hn j).symm

theorem BuffersReleased.single (hh : t.pool.freeHead = some h) (hp : t.fnextOf h = s.pool.freeHead)
    (hn : ∀ j ≠ h, t.fnextOf j = s.fnextOf j) : BuffersReleased s t [h] := by
  intro free hf hd
  refine ⟨hh, ?_⟩
  rw [hp]
  exact hf.congr fun j hj => (hn j (by rintro rfl; exact hd j (by simp) hj)).symm

theorem BuffersReleased.trans {q r : List Nat} (h1 : BuffersReleased s u q) (h2 : BuffersReleased u t r) (hd : ∀ j ∈ r, j ∉ q) :
    BuffersReleased s t (q ++ r) := by
  intro free hf hfree
  rw [List.reverse_append, List.append_assoc]
  refine h2 _ (h1 free hf fun j hj => hfree j (by simp [hj])) fun j hj hm => ?_
  rcases List.mem_append.1 hm with hm | hm
  · exact hd j hj (List.mem_reverse.1 hm)
  · exact hfree j (by simp [hj]) hm

/-! Released records. -/

theorem QueueReleased.nil (hk : t.pkts = s.pkts) (hh : t.pool.pfreeHead = s.pool.pfreeHead) : QueueReleased s t [] := by
  refine ⟨fun _ _ => by rw [hk], fun p k hp => ⟨k.next, by rw [hk, hp]⟩, fun free hf _ => ?_⟩
  rw [hh]
  exact hf.congr fun j _ => by rw [State.pnextOf, State.pnextOf, hk]

/-- PUSH_PFREE of one record (R131). -/
theorem QueueReleased.single {k : Packet} (hp : s.pkts[p]? = some k) (hk : t.pkts = s.pkts.set p { k with next := s.pool.pfreeHead })
    (hh : t.pool.pfreeHead = some p) : QueueReleased s t [p] := by
  have hself : t.pkts[p]? = some { k with next := s.pool.pfreeHead } := by
    rw [hk]
    exact List.getElem?_set_self (lt_length_of_getElem? hp)
  have hother : ∀ j, j ≠ p → t.pkts[j]? = s.pkts[j]? := fun j hj => by
    rw [hk]
    exact List.getElem?_set_ne hj.symm
  refine ⟨fun j hj => hother j (by simpa using hj), fun j k' hj => ?_, fun free hf hd => ⟨hh, ?_⟩⟩
  · by_cases hjp : j = p
    · subst hjp
      cases hp.symm.trans hj
      exact ⟨_, hself⟩
    · exact ⟨k'.next, (hother j hjp).trans hj⟩
  · rw [State.pnextOf_of_pkt hself]
    exact hf.congr fun j hj => by
      rw [State.pnextOf, State.pnextOf, hother j (by rintro rfl; exact hd j (by simp) hj)]

theorem QueueReleased.trans {q r : List Nat} (h1 : QueueReleased s u q) (h2 : QueueReleased u t r) (hd : ∀ p ∈ r, p ∉ q) :
    QueueReleased s t (q ++ r) := by
  obtain ⟨hkeep1, hnext1, hchain1⟩ := h1
  obtain ⟨hkeep2, hnext2, hchain2⟩ := h2
  refine ⟨fun p hp => ?_, fun p k hk => ?_, fun free hf hfree => ?_⟩
  · rw [List.mem_append, not_or] at hp
    rw [hkeep2 p hp.2, hkeep1 p hp.1]
  · obtain ⟨l, hl⟩ := hnext1 p k hk
    exact hnext2 p { k with next := l } hl
  · rw [List.reverse_append, List.append_assoc]
    refine hchain2 _ (hchain1 free hf fun p hp => hfree p (by simp [hp])) fun p hp hm => ?_
    rcases List.mem_append.1 hm with hm | hm
    · exact hd p hp (List.mem_reverse.1 hm)
    · exact hfree p (by simp [hp]) hm

/-! The ring. -/

/-- A walk along `next` whose buffers `prev` names is walked back along `prev` (R29). -/
theorem Chain.backwards {z : List Nat} {x y : Nat} (hc : Chain s.nextOf (some y) (s.nextOf x) z)
    (hp : ∀ j ∈ x :: z, ∃ n, s.nextOf j = some n ∧ s.prevOf n = some j) : Chain s.prevOf (some x) (s.prevOf y) z.reverse := by
  induction z generalizing x with
  | nil =>
    obtain ⟨n, hn, hprev⟩ := hp x (by simp)
    cases hn.symm.trans hc
    exact hprev
  | cons j z ih =>
    obtain ⟨hj, hz⟩ := hc
    obtain ⟨n, hn, hprev⟩ := hp x (by simp)
    cases hn.symm.trans hj
    rw [List.reverse_cons]
    exact Chain.append.2 ⟨some j, ih hz fun i hi => hp i (List.mem_cons_of_mem _ hi), rfl, hprev⟩

/-- The ring is read off its links in both directions. -/
theorem RingOf.ringLinks {ring : List Nat} (hr : RingOf s (0 :: ring)) : RingLinks s ring :=
  ⟨hr.chain.2, hr.chain.2.backwards hr.prev⟩

/-! The head of a queue. -/

theorem QueueOf.head_mem {owner : Nat → Option Nat} {b : Buffer} {q : List Nat} (hq : QueueOf s owner h b q)
    (hp : b.phead = some p) : p ∈ q := by
  have hc := hq.chain
  rw [hp] at hc
  cases q with
  | nil => cases hc
  | cons i q =>
    cases hc.1
    simp

/-- A pending record heads one queue at most (R44). -/
theorem Sound.phead_injective (hs : Sound s) {j : Nat} {b c : Buffer} (hb : s.bufs[h]? = some b) (hc : s.bufs[j]? = some c)
    (hbp : b.phead = some p) (hcp : c.phead = some p) : h = j := by
  obtain ⟨owner, _, queue, hp⟩ := pendingSound_iff.1 hs.pending
  have hh := hp.owner_eq hb ((hp.queues h b hb).head_mem hbp)
  exact Option.some.inj (hh.symm.trans (hp.owner_eq hc ((hp.queues j c hc).head_mem hcp)))

/-- The head of a queue is a record whose bytes all hold a value, and which encodes (R33, R44). -/
theorem Sound.head_encodes (hs : Sound s) {b : Buffer} (hb : s.bufs[h]? = some b) (hp : b.phead = some p) :
    ∃ k a, s.pkts[p]? = some k ∧ k.bytes.length = k.len.toNat ∧ encodePacket s.cfg k.bytes k.pre.toNat k.post.toNat = .ok a := by
  obtain ⟨owner, _, queue, hpend⟩ := pendingSound_iff.1 hs.pending
  have hq := hpend.queues h b hb
  have hm := hq.head_mem hp
  obtain ⟨k, hk⟩ : ∃ k, s.pkts[p]? = some k := ⟨_, List.getElem?_eq_getElem ((hq.mem p).1 hm).1⟩
  obtain ⟨hlen, henc⟩ := hq.sound p k hm hk
  obtain ⟨a, ha⟩ := Encoded.isOk_iff.1 henc
  exact ⟨k, a, hk, hlen, ha⟩

end Sys2Proof.Machine
end

section
/-! PROOFS. MGR_INVOKE (R180 to R184): what it does to one buffer of the ring, what that makes of the whole ring, and the
statements. -/

namespace Sys2Proof.Machine

variable {s t u : State} {n h : Nat} {b : Buffer} {v w : List Nat}

/-! What the Manager Task makes of a buffer. -/

/-- Two buffers that differ in their place on the ring at most. -/
def Buffer.Relinked (b c : Buffer) : Prop := ∃ n p, c = { b with next := n, prev := p }

theorem Buffer.Relinked.refl (b : Buffer) : b.Relinked b := ⟨_, _, rfl⟩

theorem Buffer.Relinked.trans {b c d : Buffer} (h1 : b.Relinked c) (h2 : c.Relinked d) : b.Relinked d := by
  obtain ⟨n, p, rfl⟩ := h1
  obtain ⟨n, p, rfl⟩ := h2
  exact ⟨n, p, rfl⟩

/-- UNLINK writes the links of the other buffers only (R134). -/
theorem unlinkedAt_relinked {pv nx j : Nat} (hj : j ≠ h) (b : Buffer) : b.Relinked (unlinkedAt pv nx h j b) :=
  ⟨if j = pv then some nx else b.next, if j = nx then some pv else b.prev, by simp [unlinkedAt, hj]⟩

theorem Buffer.Relinked.eq_of_links {c : Buffer} (h : b.Relinked c) (hn : b.next = c.next) (hp : b.prev = c.prev) : c = b := by
  obtain ⟨_, _, rfl⟩ := h
  cases hn
  cases hp
  rfl

/-- SERVICE's free path leaves this of a buffer (R182); `l` followed it on the free list. -/
def retiredBuffer (b : Buffer) (l : Option Nat) : Buffer :=
  { b with state := .empty, linked := false, next := none, prev := none, replyWhen := .never, fnext := l }

/-- What MGR_INVOKE makes of a buffer of the ring `b` it meets in `s` (R180, R182, R183), its ring links aside. -/
inductive Buffer.Serviced (s : State) (b : Buffer) : Buffer → Prop
  | skipped : b.serviceable = false → Serviced s b b
  | retired (l : Option Nat) : b.serviceable = true → b.phead = none → Serviced s b (retiredBuffer b l)
  | loaded {p : Nat} {k : Packet} {a : List Nat} : b.serviceable = true → b.phead = some p → s.pkts[p]? = some k →
      encodePacket s.cfg k.bytes k.pre.toNat k.post.toNat = .ok a → Serviced s b (loadedBuffer b k a b)

/-- What is made of a buffer depends on no ring link, and on no record but the head of its queue. -/
theorem Buffer.Serviced.of_relinked {c d : Buffer} (hd : c.Serviced u d) (hbc : b.Relinked c) (hcfg : u.cfg = s.cfg)
    (hk : ∀ p, b.phead = some p → u.pkts[p]? = s.pkts[p]?) : ∃ e, b.Serviced s e ∧ e.Relinked d := by
  obtain ⟨n, p, rfl⟩ := hbc
  cases hd with
  | skipped hs => exact ⟨b, .skipped hs, n, p, rfl⟩
  | retired l hs hq => exact ⟨_, .retired l hs hq, .refl _⟩
  | loaded hs hq hp ha => exact ⟨_, .loaded hs hq (hk _ hq ▸ hp) (hcfg ▸ ha), n, p, rfl⟩

/-! What the statement reads of a buffer. -/

theorem Buffer.serviceable_iff : b.serviceable = true ↔ b.linked = true ∧ b.state = .load ∧ b.isOpen = false := by
  simp [Buffer.serviceable, and_assoc]

theorem State.retires_of_buf (hb : s.bufs[h]? = some b) : s.retires h = (b.serviceable && b.phead.isNone) := by
  simp [State.retires, hb]

theorem State.loadedRecord_of_buf (hb : s.bufs[h]? = some b) : s.loadedRecord h = if b.serviceable then b.phead else none := by
  simp [State.loadedRecord, hb]

theorem State.loadedRecord_eq_some {p : Nat} : s.loadedRecord h = some p ↔
    ∃ b, s.bufs[h]? = some b ∧ b.serviceable = true ∧ b.phead = some p := by
  unfold State.loadedRecord
  cases s.bufs[h]? with
  | none => simp
  | some b => by_cases hs : b.serviceable = true <;> simp [hs]

theorem State.serviceReply_of_skipped (hb : s.bufs[h]? = some b) (hs : b.serviceable = false) : s.serviceReply h = none := by
  simp [State.serviceReply, hb, hs]

theorem State.serviceReply_of_retired (hb : s.bufs[h]? = some b) (hs : b.serviceable = true) (hq : b.phead = none) :
    s.serviceReply h = if b.replyWhen = .atEnd then some (.reply b.replyToken) else none := by
  simp [State.serviceReply, hb, hs, hq]

theorem State.serviceReply_of_loaded {p : Nat} (hb : s.bufs[h]? = some b) (hs : b.serviceable = true) (hq : b.phead = some p) :
    s.serviceReply h = if s.pnextOf p = none ∧ b.replyWhen = .atStart then some (.reply b.replyToken) else none := by
  simp [State.serviceReply, hb, hs, hq]

/-! What MGR_INVOKE has done once it has met the buffers `v`. -/

/-- The step from `s` to `t`, in which the Manager Task met the buffers `v` of the ring in this order: what it released, replied and
made of each buffer (R180 to R183). The ring itself is `RingOf`. -/
structure Drained (s t : State) (v : List Nat) : Prop where
  frame : t = { s with bufs := t.bufs, pkts := t.pkts, pool := t.pool, history := s.history ++ v.filterMap s.serviceReply }
  freed : BuffersReleased s t (v.filter s.retires)
  unqueued : QueueReleased s t (v.filterMap s.loadedRecord)
  buffers : ∀ (j : Nat) (b : Buffer), s.bufs[j]? = some b →
    ∃ d c, t.bufs[j]? = some c ∧ d.Relinked c ∧ if j ∈ v then b.Serviced s d else d = b

theorem Drained.nil (s : State) : Drained s s [] :=
  ⟨by simp, .nil (fun _ => rfl) rfl, .nil rfl rfl, fun _ b hb => ⟨b, b, hb, .refl b, by simp⟩⟩

theorem Drained.cfg (hd : Drained s t v) : t.cfg = s.cfg := by
  rw [hd.frame]

section
variable (hs : Sound s) (hd : Drained s u v) {j : Nat} (hb : s.bufs[j]? = some b) (hj : j ∉ v)

include hd hb hj in
/-- A buffer not yet met is as it was but for its ring links. -/
theorem Drained.relinked : ∃ c, u.bufs[j]? = some c ∧ b.Relinked c := by
  obtain ⟨d, c, hc, hdc, hdb⟩ := hd.buffers j b hb
  rw [if_neg hj] at hdb
  exact ⟨c, hc, hdb ▸ hdc⟩

include hs hd hb hj in
/-- The head of the queue of a buffer not yet met is no record that was loaded (R44). -/
theorem Drained.head_pkts {p : Nat} (hp : b.phead = some p) : u.pkts[p]? = s.pkts[p]? := by
  refine hd.unqueued.1 p fun hm => ?_
  obtain ⟨i, hi, hload⟩ := List.mem_filterMap.1 hm
  obtain ⟨c, hc, -, hcp⟩ := State.loadedRecord_eq_some.1 hload
  exact hj (hs.phead_injective hc hb hcp hp ▸ hi)

include hs hd hb hj in
/-- What the statement reads of a buffer not yet met has not changed. -/
theorem Drained.reads : u.retires j = s.retires j ∧ u.loadedRecord j = s.loadedRecord j ∧ u.serviceReply j = s.serviceReply j := by
  obtain ⟨c, hc, hbc⟩ := hd.relinked hb hj
  obtain ⟨_, _, rfl⟩ := hbc
  refine ⟨(State.retires_of_buf hc).trans (State.retires_of_buf hb).symm,
    (State.loadedRecord_of_buf hc).trans (State.loadedRecord_of_buf hb).symm, ?_⟩
  cases hsv : b.serviceable with
  | false => rw [State.serviceReply_of_skipped hc hsv, State.serviceReply_of_skipped hb hsv]
  | true =>
    cases hq : b.phead with
    | none => rw [State.serviceReply_of_retired hc hsv hq, State.serviceReply_of_retired hb hsv hq]
    | some p =>
      rw [State.serviceReply_of_loaded hc hsv hq, State.serviceReply_of_loaded hb hsv hq, State.pnextOf, State.pnextOf,
        hd.head_pkts hs hb hj hq]

end

/-- The buffers `v` and after them the buffers `w`. -/
theorem Drained.trans (hs : Sound s) (h1 : Drained s u v) (h2 : Drained u t w) (hw : ∀ j ∈ w, j ∉ v ∧ ∃ b, s.bufs[j]? = some b) :
    Drained s t (v ++ w) := by
  have hreads : ∀ j ∈ w, u.retires j = s.retires j ∧ u.loadedRecord j = s.loadedRecord j ∧ u.serviceReply j = s.serviceReply j :=
    fun j hj => (hw j hj).2.elim fun _ hb => h1.reads hs hb (hw j hj).1
  have hreplies : w.filterMap u.serviceReply = w.filterMap s.serviceReply := List.filterMap_congr fun j hj => (hreads j hj).2.2
  have hrecords : w.filterMap u.loadedRecord = w.filterMap s.loadedRecord := List.filterMap_congr fun j hj => (hreads j hj).2.1
  have hretires : w.filter u.retires = w.filter s.retires := List.filter_congr fun j hj => (hreads j hj).1
  refine ⟨?_, ?_, ?_, fun j b hb => ?_⟩
  · refine h2.frame.trans ?_
    rw [hreplies, h1.frame, List.filterMap_append, ← List.append_assoc]
  · rw [List.filter_append, ← hretires]
    exact h1.freed.trans h2.freed fun j hj hjv => (hw j (List.mem_of_mem_filter hj)).1 (List.mem_of_mem_filter hjv)
  · rw [List.filterMap_append, ← hrecords]
    refine h1.unqueued.trans h2.unqueued fun p hp hpv => ?_
    rw [hrecords] at hp
    obtain ⟨j, hj, hjp⟩ := List.mem_filterMap.1 hp
    obtain ⟨i, hi, hip⟩ := List.mem_filterMap.1 hpv
    obtain ⟨b, hb, -, hbp⟩ := State.loadedRecord_eq_some.1 hjp
    obtain ⟨c, hc, -, hcp⟩ := State.loadedRecord_eq_some.1 hip
    exact (hw j hj).1 (hs.phead_injective hc hb hcp hbp ▸ hi)
  · obtain ⟨d, c, hc, hdc, hserved⟩ := h1.buffers j b hb
    obtain ⟨e, x, hx, hex, hserved'⟩ := h2.buffers j c hc
    by_cases hjw : j ∈ w
    · have hjv := (hw j hjw).1
      rw [if_neg hjv] at hserved
      rw [if_pos hjw] at hserved'
      obtain ⟨f, hf, hfe⟩ := hserved'.of_relinked (hserved ▸ hdc) h1.cfg fun p hp => h1.head_pkts hs hb hjv hp
      exact ⟨f, x, hx, hfe.trans hex, by rwa [if_pos (by simp [hjw])]⟩
    · rw [if_neg hjw] at hserved'
      exact ⟨d, x, hx, hdc.trans (hserved' ▸ hex), by simpa [hjw] using hserved⟩

/-! One buffer of the ring. -/

/-- The meeting of one buffer: what it released, replied and made of that buffer, the other buffers keeping all but their ring links. -/
theorem Drained.single (hb : s.bufs[h]? = some b)
    (hframe : t = { s with bufs := t.bufs, pkts := t.pkts, pool := t.pool, history := s.history ++ (s.serviceReply h).toList })
    (hfreed : BuffersReleased s t (if s.retires h then [h] else [])) (hrecord : QueueReleased s t (s.loadedRecord h).toList)
    (hself : ∃ d, t.bufs[h]? = some d ∧ b.Serviced s d)
    (hother : ∀ (j : Nat) (c : Buffer), j ≠ h → s.bufs[j]? = some c → ∃ d, t.bufs[j]? = some d ∧ c.Relinked d) : Drained s t [h] := by
  have hone : ∀ {α : Type} (f : Nat → Option α), [h].filterMap f = (f h).toList := fun f => by
    cases hf : f h <;> simp [hf]
  refine ⟨by rwa [hone], by rwa [List.filter_cons, List.filter_nil], by rwa [hone], fun j c hc => ?_⟩
  by_cases hj : j = h
  · subst hj
    cases hb.symm.trans hc
    obtain ⟨d, hd, hserved⟩ := hself
    exact ⟨d, d, hd, .refl d, by rwa [if_pos (by simp)]⟩
  · obtain ⟨d, hd, hcd⟩ := hother j c hj hc
    exact ⟨c, d, hd, hcd, by rw [if_neg (by simpa using hj)]⟩

/-- An open buffer, or one that is not in `LOAD`, is passed over (R183). -/
theorem Drained.of_skipped (hb : s.bufs[h]? = some b) (hs : b.serviceable = false) : Drained s s [h] := by
  refine .single hb ?_ ?_ ?_ ⟨b, hb, .skipped hs⟩ fun _ c _ hc => ⟨c, hc, .refl c⟩
  · rw [State.serviceReply_of_skipped hb hs, Option.toList_none, List.append_nil]
  · rw [State.retires_of_buf hb, hs]
    exact .nil (fun _ => rfl) rfl
  · rw [State.loadedRecord_of_buf hb, hs]
    exact .nil rfl rfl

/-- SERVICE of a buffer with a queue is LOAD_HEAD (R136, R182). -/
theorem Drained.of_loadHead {p : Nat} (hs : Sound s) (hb : s.bufs[h]? = some b) (hserve : b.serviceable = true)
    (hp : b.phead = some p) (ht : s.loadHead h = .ok t) : Drained s t [h] := by
  obtain ⟨k, a, hk, hlen, ha⟩ := hs.head_encodes hb hp
  have hload := State.loadHead_of_record hb (Buffer.serviceable_iff.1 hserve).2.1 hp hk hlen ha
  obtain rfl := Except.ok.inj (hload.symm.trans ht)
  have hother : ∀ {j}, j ≠ h → (s.bufs.set h (loadedBuffer b k a b))[j]? = s.bufs[j]? := fun hj => List.getElem?_set_ne hj.symm
  have hself : (s.bufs.set h (loadedBuffer b k a b))[h]? = some (loadedBuffer b k a b) :=
    List.getElem?_set_self (lt_length_of_getElem? hb)
  refine .single hb ?_ ?_ ?_ ⟨_, hself, .loaded hserve hp hk ha⟩ fun j c hj hc => ⟨c, (hother hj).trans hc, .refl c⟩
  · rw [State.serviceReply_of_loaded hb hserve hp, State.pnextOf_of_pkt hk]
    split <;> rfl
  · rw [State.retires_of_buf hb, hp, Option.isNone_some, Bool.and_false]
    refine .nil (fun j => ?_) rfl
    by_cases hj : j = h
    · subst hj
      simp only [State.fnextOf, hself, hb]
      rfl
    · simp only [State.fnextOf, hother hj]
  · rw [State.loadedRecord_of_buf hb, hserve, if_pos rfl, hp]
    exact .single hk rfl rfl

/-- SERVICE's free path, buffer by buffer (R182): the buffer is retired and its neighbours are linked to one another. -/
theorem State.retire_bufs {a z : List Nat} (hr : RingOf s (a ++ h :: z)) (h0 : h ≠ 0) (hb : s.bufs[h]? = some b)
    (ht : s.retire h = .ok t) :
    t = { s with bufs := t.bufs, pool := { s.pool with freeHead := some h }
                 history := s.history ++ if b.replyWhen = .atEnd then [.reply b.replyToken] else [] } ∧
      t.bufs[h]? = some (retiredBuffer b s.pool.freeHead) ∧
      ∃ pv nx, ∀ j ≠ h, t.bufs[j]? = s.bufs[j]?.map (unlinkedAt pv nx h j) := by
  obtain ⟨pv, nx, u, -, -, hu, hframe, hbufs, -⟩ := hr.unlink h0
  obtain ⟨c, u', hc, hu', rfl⟩ := State.retire_eq_ok.1 ht
  cases hb.symm.trans hc
  cases hu.symm.trans hu'
  have hpool : u.pool = s.pool := by rw [hframe]
  refine ⟨?_, ?_, pv, nx, fun j hj => ?_⟩
  · rw [hframe]
    rfl
  · simp [hbufs, hb, hpool, unlinkedAt, retiredBuffer]
  · simp [hbufs, Ne.symm hj]

/-- SERVICE's free path (R182). -/
theorem Drained.of_retire {a z : List Nat} (hr : RingOf s (a ++ h :: z)) (h0 : h ≠ 0) (hb : s.bufs[h]? = some b)
    (hserve : b.serviceable = true) (hq : b.phead = none) (ht : s.retire h = .ok t) : Drained s t [h] := by
  obtain ⟨hframe, hself, pv, nx, hother⟩ := State.retire_bufs hr h0 hb ht
  refine .single hb ?_ ?_ ?_ ⟨_, hself, .retired _ hserve hq⟩ fun j c hj hc =>
    ⟨unlinkedAt pv nx h j c, by rw [hother j hj, hc]; rfl, unlinkedAt_relinked hj c⟩
  · rw [State.serviceReply_of_retired hb hserve hq, hframe]
    split <;> rfl
  · rw [State.retires_of_buf hb, hserve, hq]
    refine .single (by rw [hframe]) (State.fnextOf_of_buf hself) fun j hj => ?_
    rw [State.fnextOf, hother j hj, Option.bind_map]
    rfl
  · rw [State.loadedRecord_of_buf hb, hserve, if_pos rfl, hq]
    exact .nil (by rw [hframe]) (by rw [hframe])

/-- A buffer that was met is still linked unless it was retired. -/
theorem Drained.linked_iff {a z : List Nat} {c : Buffer} (hd : Drained s t [h]) (hr : RingOf s (a ++ h :: z)) (hc : t.bufs[h]? = some c) :
    c.linked = true ↔ s.retires h = false := by
  obtain ⟨b, hb, hl⟩ := hr.buffer (h := h) (by simp)
  obtain ⟨d, c', hc', ⟨_, _, hdc⟩, hserved⟩ := hd.buffers h b hb
  cases hc.symm.trans hc'
  rw [if_pos (by simp)] at hserved
  rw [State.retires_of_buf hb, hdc]
  cases hserved with
  | skipped hs => simp [hs, hl]
  | retired l hs hq => simp [hs, hq, retiredBuffer]
  | loaded hs hq => simp [hq, loadedBuffer, hl]

/-- MGR_INVOKE at one buffer of the ring (R180, R182, R183). -/
theorem SoundAt.attend {a z : List Nat} (hs : SoundAt n s) (hr : RingOf s (a ++ h :: z)) (hb : s.bufs[h]? = some b) (h0 : h ≠ 0) :
    ∃ u, s.attend h b = .ok u ∧ SoundAt n u ∧ Drained s u [h] ∧ RingOf u (a ++ [h].filter (fun j => !s.retires j) ++ z) := by
  have hl : b.linked = true := (hr.linked h b hb).2 (by simp)
  by_cases hserve : b.state = .load ∧ b.isOpen = false
  · have hsv : b.serviceable = true := Buffer.serviceable_iff.2 ⟨hl, hserve⟩
    obtain ⟨u, hu, hsu, hring⟩ := hs.service hr hb hserve.1 hserve.2
    have hd : Drained s u [h] := by
      obtain ⟨c, hc, ⟨hq, hload⟩ | ⟨hq, hretire⟩⟩ := State.service_eq_ok.1 hu
      · cases hb.symm.trans hc
        obtain ⟨p, hp⟩ := Option.ne_none_iff_exists'.1 hq
        exact .of_loadHead hs.1 hb hsv hp hload
      · cases hb.symm.trans hc
        exact .of_retire hr h0 hb hsv hq hretire
    obtain ⟨_, c, hc, -⟩ := hd.buffers h b hb
    have hlinked := hd.linked_iff hr hc
    refine ⟨u, State.attend_eq_ok.2 (.inl ⟨hserve.1, hserve.2, hu⟩), hsu, hd, ?_⟩
    obtain hring | hring := hring
    · have hstay : s.retires h = false := hlinked.1 ((hring.linked h c hc).2 (by simp))
      simpa [hstay] using hring
    · have hnot : h ∉ a ++ z := (List.nodup_cons.1 (List.perm_middle.nodup_iff.1 hr.nodup)).1
      have hgone : s.retires h = true := by
        rw [← Bool.not_eq_false, ← hlinked, hring.linked h c hc]
        exact hnot
      simpa [hgone] using hring
  · have hsv : b.serviceable = false := by
      rw [← Bool.not_eq_true, Buffer.serviceable_iff]
      exact fun h => hserve h.2
    refine ⟨s, State.attend_eq_ok.2 (.inr ⟨hserve, rfl⟩), hs, .of_skipped hb hsv, ?_⟩
    simpa [State.retires_of_buf hb, hsv] using hr

/-! The whole ring. -/

/-- MGR_INVOKE's walk over the rest `z` of the ring, `a` being behind it (R180). -/
theorem SoundAt.drainFrom_drained {m : Nat} {a z : List Nat} (hs : SoundAt n s) (hr : RingOf s (a ++ z)) (h0 : 0 ∉ z)
    (hm : z.length ≤ m) : ∃ t, Machine.drainFrom m (some (z.headD 0)) s = .ok t ∧ Drained s t z ∧
      RingOf t (a ++ z.filter fun j => !s.retires j) := by
  induction z generalizing m a s with
  | nil => exact ⟨s, drainFrom_zero m s, .nil s, hr⟩
  | cons h z ih =>
    obtain ⟨m, rfl⟩ : ∃ k, m = k + 1 := Nat.exists_eq_succ_of_ne_zero (by rintro rfl; simp at hm)
    obtain ⟨hh0, hz0⟩ : h ≠ 0 ∧ 0 ∉ z := by simpa [eq_comm] using h0
    obtain ⟨b, hb, hl⟩ := hr.buffer (h := h) (by simp)
    have hlive := hs.1.poolSide.live_of_linked hb hh0 hl
    have hnext : b.next = some (z.headD 0) := State.nextOf_of_buf hb ▸ hr.next
    have hz : ∀ j ∈ z, j ∉ [h] ∧ ∃ b, s.bufs[j]? = some b := fun j hj => by
      refine ⟨fun hjh => ?_, (hr.buffer (h := j) (by simp [hj])).imp fun _ h => h.1⟩
      rw [List.mem_singleton.1 hjh] at hj
      exact (List.nodup_cons.1 (List.nodup_append.1 hr.nodup).2.1).1 hj
    obtain ⟨u, hu, hsu, hdu, hru⟩ := hs.attend hr hb hh0
    obtain ⟨t, ht, hdt, hrt⟩ := ih hsu hru hz0 (by simpa using hm)
    have hretires : (z.filter fun j => !u.retires j) = z.filter fun j => !s.retires j := List.filter_congr fun j hj => by
      obtain ⟨hjh, c, hc⟩ := hz j hj
      rw [(hdu.reads hs.1 hc hjh).1]
    refine ⟨t, (drainFrom_cons hh0).2 ⟨b, u, hb, hlive, hu, by rwa [hnext]⟩, hdu.trans hs.1 hdt hz, ?_⟩
    rwa [hretires, List.append_assoc, ← List.filter_append] at hrt

/-- The state in which MGR_INVOKE's walk begins (R180). -/
theorem Sound.consumed (hs : Sound s) : Sound s.clearResult.consume := (SoundAt.withOutputs ⟨hs, rfl⟩ _ _ _ _ _ _).1

/-- MGR_INVOKE in a sound state: the walk meets the whole ring (R180). -/
theorem Sound.exec_mgrInvoke (hs : Sound s) (hl : s.latch = true) : ∃ t ring, exec .mgrInvoke s = .next t ∧ RingIs s ring ∧
    RingOf s (0 :: ring) ∧ Drained s.clearResult.consume t ring ∧ RingOf t (0 :: ring.filter fun j => !s.retires j) := by
  have hcons : SoundAt s.openCount s.clearResult.consume := ⟨hs.consumed, rfl⟩
  obtain ⟨ring, hring, hr⟩ := SoundAt.ringIs ⟨hs, rfl⟩
  have hr' : RingOf s.clearResult.consume ([0] ++ ring) := hr.congr fun _ => rfl
  obtain ⟨b, hb, -⟩ := hcons.1.fixedBuffer
  have hnext : b.next = some (ring.headD 0) := State.nextOf_of_buf hb ▸ RingOf.next (a := []) hr'
  have ⟨_, h0, hlen, _⟩ := hring
  obtain ⟨t, ht, hd, hrt⟩ := hcons.drainFrom_drained hr' h0 hlen
  have hbody : managerBody s.clearResult = .ok t := Attempt.bind_eq_ok.2 ⟨b, State.buf_eq_ok.2 hb, by rw [hnext]; exact ht⟩
  exact ⟨t, ring, (exec_eq_runStep fun _ => hl).trans (runStep_of_ok hs.running hbody), hring, hr, hd, hrt⟩

/-- Every buffer that is serviceable is on the ring, so that MGR_INVOKE leaves every buffer serviced or as it was (R180). -/
theorem Drained.serviced {ring : List Nat} {j : Nat} (hd : Drained s t ring) (hs : Sound s) (hr : RingOf s (0 :: ring))
    (hb : s.bufs[j]? = some b) : ∃ d c, t.bufs[j]? = some c ∧ d.Relinked c ∧ b.Serviced s d := by
  obtain ⟨d, c, hc, hdc, hserved⟩ := hd.buffers j b hb
  refine ⟨d, c, hc, hdc, ?_⟩
  by_cases hj : j ∈ ring
  · rwa [if_pos hj] at hserved
  · rw [if_neg hj] at hserved
    subst hserved
    refine .skipped ?_
    rw [← Bool.not_eq_true, Buffer.serviceable_iff]
    rintro ⟨hl, hst, -⟩
    have hj0 : j ≠ 0 := ((SoundAt.soundBut ⟨hs, rfl⟩ 0).side).ne_zero hb (by rw [hst]; nofun)
    exact (List.mem_cons.1 ((hr.linked j d hb).1 hl)).elim hj0 hj

theorem Buffer.Relinked.serviceable_eq {c : Buffer} (h : b.Relinked c) : c.serviceable = b.serviceable := by
  obtain ⟨_, _, rfl⟩ := h
  rfl

/-- No buffer that was met still waits for the Manager Task (R184). -/
theorem Buffer.Serviced.serviceable_eq_false {d : Buffer} (h : b.Serviced s d) : d.serviceable = false := by
  cases h with
  | skipped hs => exact hs
  | retired l => simp [Buffer.serviceable, retiredBuffer]
  | loaded => simp [Buffer.serviceable, loadedBuffer]

/-- A buffer that may be played is left as it was: it is not in `LOAD` (R22). -/
theorem Buffer.Serviced.eq_of_radiable {d : Buffer} (h : b.Serviced s d) (hr : b.state.radiable = true) : d = b := by
  have hnot : b.serviceable ≠ true := fun hs => by
    rw [(Buffer.serviceable_iff.1 hs).2.1] at hr
    cases hr
  cases h with
  | skipped => rfl
  | retired _ hs => exact absurd hs hnot
  | loaded hs => exact absurd hs hnot

/-! The statements. -/

/-- Settles O34: with the latch clear the step is refused, and with it set it runs its body, which is no refusal. -/
theorem managerIsEnabledByTheLatch : Obligations.ManagerIsEnabledByTheLatch := by
  intro s hs
  refine ⟨fun hl => if_pos ⟨hs, hl⟩, fun hl r => ?_⟩
  rw [exec_eq_runStep fun _ => hl, runStep, if_neg (by simp [hs])]
  rcases bodyOf .mgrInvoke s.clearResult with (c | f) | t <;> nofun

/-- Settles O35: the walk meets the ring's buffers one after another, and no service touches what a later one reads. -/
theorem managerServicesEachBuffer : Obligations.ManagerServicesEachBuffer := by
  intro s hs hl
  obtain ⟨t, ring, hexec, hring, hr, hd, hrt⟩ := hs.exec_mgrInvoke hl
  refine ⟨t, ring, hexec, hring, hd.frame, hrt.ringLinks, hd.freed, hd.unqueued, fun h b hb => ?_⟩
  obtain ⟨d, c, hc, ⟨nx, pv, rfl⟩, hserved⟩ := hd.serviced hs.consumed (hr.congr fun _ => rfl) hb
  have hlinks : d.linked = false → nx = none ∧ pv = none := hrt.unlinked h _ hc
  refine ⟨_, hc, ?_⟩
  cases hserved with
  | skipped hsv =>
    refine ⟨fun hbl => ?_, fun _ => rfl, fun h => by simp [hsv] at h, fun h => by simp [hsv] at h⟩
    obtain ⟨rfl, rfl⟩ := hlinks hbl
    obtain ⟨hnext, hprev⟩ := hr.unlinked h b hb hbl
    exact Buffer.Relinked.eq_of_links ⟨none, none, rfl⟩ hnext hprev
  | retired l hsv hq =>
    obtain ⟨rfl, rfl⟩ := hlinks rfl
    exact ⟨fun hbl => by simp [Buffer.serviceable, hbl] at hsv, fun h => by simp [hsv] at h, fun _ _ => rfl,
      fun _ p hp => by simp [hq] at hp⟩
  | @loaded p k a hsv hq hk ha =>
    refine ⟨fun hbl => by simp [Buffer.serviceable, hbl] at hsv, fun h => by simp [hsv] at h, fun _ h => by simp [hq] at h,
      fun _ p' hp => ?_⟩
    cases hq.symm.trans hp
    exact ⟨k, a, hk, ha, rfl⟩

/-- Settles O36: a buffer that waited was serviced, and the one being played, which cannot have waited, kept its place. -/
theorem managerDrains : Obligations.ManagerDrains := by
  intro s hs hl
  obtain ⟨t, ring, hexec, -, hr, hd, hrt⟩ := hs.exec_mgrInvoke hl
  refine ⟨t, hexec, by rw [hd.frame]; exact hs.running, fun h c hc hcl hco hload => ?_, ?_⟩
  · obtain ⟨b, hb⟩ : ∃ b, s.bufs[h]? = some b :=
      ⟨_, List.getElem?_eq_getElem ((exec_sameArenas hexec).1 ▸ lt_length_of_getElem? hc)⟩
    obtain ⟨d, c', hc', hdc, hserved⟩ := hd.serviced hs.consumed (hr.congr fun _ => rfl) hb
    cases hc.symm.trans hc'
    have hno : c.serviceable = false := hdc.serviceable_eq.trans hserved.serviceable_eq_false
    rw [Buffer.serviceable_iff.2 ⟨hcl, hload, hco⟩] at hno
    cases hno
  · obtain ⟨b, hb, hrad⟩ := hs.cursor
    obtain ⟨d, c, hc, ⟨_, _, hdc⟩, hserved⟩ := hd.serviced hs.consumed (hr.congr fun _ => rfl) hb
    rw [hserved.eq_of_radiable hrad] at hdc
    have hmem : s.eng.cursor ∈ 0 :: ring := (SoundAt.soundBut ⟨hs, rfl⟩ (s.eng.cursor + 1)).cursor_mem hr (by omega)
    have hcur : t.eng.cursor = s.eng.cursor := by rw [hd.frame]; rfl
    exact ⟨c, hcur ▸ hc, by rw [hdc]; exact (hr.linked _ b hb).2 hmem, by rw [hdc]; exact hrad⟩

end Sys2Proof.Machine
end

section
/-! PROOFS. The queries and the unassigned opcode (R192 to R196): each answers what it reads, and writes at most the scan position. -/

namespace Sys2Proof.Machine

variable {s : State} {h : Nat}

/-- The two bytes of a 16-bit field, low byte first (R64). -/
theorem loByte_add_hiByte (w : Word) : (loByte w).toNat + 256 * (hiByte w).toNat = w.toNat := by
  have hhi : (hiByte w).toNat = w.toNat / 256 := by
    rw [hiByte, BitVec.toNat_setWidth, BitVec.toNat_ushiftRight, Nat.shiftRight_eq_div_pow]
    omega
  rw [hhi, loByte, BitVec.toNat_setWidth]
  omega

/-- Settles O54: the body answers the counter's two bytes. -/
theorem packetsSentReadsTheCounter : Obligations.PacketsSentReadsTheCounter := fun s hs =>
  ⟨loByte s.packetsSent, hiByte s.packetsSent, loByte_add_hiByte _, runStep_of_ok hs rfl⟩

/-- Settles O55: the body of each operand form, as it is written. -/
theorem resetScanStartsAgain : Obligations.ResetScanStartsAgain := fun _ hs =>
  ⟨runStep_of_ok hs rfl, fun _ => runStep_of_ok hs rfl⟩

/-! FREE_BUFFERS. -/

/-- FREE_BUFFERS answers the length of a free list that ends, or that comes back to a buffer on it (R192). -/
theorem exec_freeBuffers_of_list {stop : Option Nat} {free : List Nat} (hs : s.halted = false)
    (hc : Chain s.fnextOf stop s.pool.freeHead free) (hstop : ∀ h, stop = some h → h ∈ free) (hd : free.Nodup)
    (hb : ∀ h ∈ free, h < s.bufs.length) :
    exec (.freeBuffers (.ok ())) s = .next { s with result := [0, BitVec.ofNat 8 free.length] } :=
  runStep_of_ok hs (Attempt.bind_eq_ok.2 ⟨_, State.freeFrom_of_list (s := s.clearResult) hc hstop hd hb, rfl⟩)

/-- Settles O53: a list that ends holds nothing twice, and of one that comes back this is given. -/
theorem freeBuffersCountsTheFreeList : Obligations.FreeBuffersCountsTheFreeList := by
  intro s free stop hs hc hstop hb
  obtain rfl | ⟨hd, h, hh, rfl⟩ := hstop
  · exact exec_freeBuffers_of_list hs hc nofun (hc.nodup fun _ _ => nofun) hb
  · exact exec_freeBuffers_of_list hs hc (fun _ hj => Option.some.inj hj ▸ hh) hd hb

/-! SCAN_NEXT. -/

/-- SCAN_NEXT answers the buffer of the ring at the scan position and moves on, or past the last one that there is none (R195). -/
theorem State.scanNext_eq_ok {ring : List Nat} {t : State} (hr : RingIs s ring) :
    s.scanNext = .ok t ↔
      (ring[s.scanPos.toNat]? = none ∧ t = s.answer .endOfScan [0, 0, 0, 0, 0]) ∨
      ∃ h b, ring[s.scanPos.toNat]? = some h ∧ s.bufs[h]? = some b ∧
        t = (s.setScanPos (s.scanPos + 1)).answer .ok (scanBytes b) := by
  have hlive := hr.2.2.2
  simp only [State.scanNext, Attempt.bind_eq_ok, State.ringOrder_of_ringIs hr, Except.ok.injEq, exists_eq_left',
    State.liveIn_of_live hlive]
  cases ring[s.scanPos.toNat]? with
  | none => simp
  | some h => simp only [Attempt.bind_eq_ok, State.buf_eq_ok, Attempt.pure_eq_ok, reduceCtorEq, false_and, false_or,
      Option.some.injEq, exists_and_left, exists_eq_left']

theorem polarity_code_eq (p : Polarity) : p.code = if p = .mobile then 0 else 1 := by
  cases p <;> rfl

/-- Settles O56: the live buffers are the whole ring, so that the scan position counts along it. -/
theorem scanNextWalksTheRing : Obligations.ScanNextWalksTheRing := by
  intro s ring hs hr
  refine ⟨fun h b hh hb => ?_, fun hlen => ?_⟩
  · exact ⟨b.pol.code, loByte b.addr, hiByte b.addr, loByte b.action, hiByte b.action, polarity_code_eq _, loByte_add_hiByte _,
      loByte_add_hiByte _, runStep_of_ok hs ((State.scanNext_eq_ok (s := s.clearResult) hr).2 (.inr ⟨h, b, hh, hb, rfl⟩))⟩
  · exact runStep_of_ok hs ((State.scanNext_eq_ok (s := s.clearResult) hr).2 (.inl ⟨List.getElem?_eq_none hlen, rfl⟩))

/-! The unassigned opcode. -/

/-- A frame that is empty or begins with a byte the map of R94 leaves out stands for an unassigned opcode (R196). -/
theorem wellFormed_badOpcode {frame : List Byte} (hf : ∀ op t, frame = op :: t → op = 0x00 ∨ 0x0A ≤ op.toNat) :
    (Instr.badOpcode frame).wellFormed = true := by
  cases frame with
  | nil => rfl
  | cons op t =>
    obtain rfl | hop := hf op t rfl
    · rfl
    · have : ¬ op.toNat ≤ 9 := by omega
      simp [Instr.wellFormed, opcodeAssigned, this]

/-- The label of a frame that no command has (R90): its first byte, or 0, is the operation. -/
theorem encode_badOpcode (frame : List Byte) :
    encode (.badOpcode frame) = { word := (frame.headD 0).setWidth 10, frame := frame } := by
  cases frame <;> rfl

/-- An unassigned opcode answers at once (R196). -/
theorem exec_badOpcode (frame : List Byte) (hs : s.halted = false) :
    exec (.badOpcode frame) s = .next { s with result := [6] } :=
  runStep_of_ok (body := bodyOf (.badOpcode frame)) hs rfl

/-- Settles O6: the label decodes to the unassigned opcode by the round trip, and its body answers at once. -/
theorem unassignedOpcodeAnswersBadOpcode : Obligations.UnassignedOpcodeAnswersBadOpcode := by
  intro s frame rest hs hc hf ha
  have hdecode := decodeInvertsEncode (.badOpcode frame) (wellFormed_badOpcode hf)
  rw [encode_badOpcode] at hdecode
  exact ⟨exec_badOpcode frame hs,
    (stepRunsTheDecodedInstruction s _ rest _ hc ha hdecode).trans (exec_badOpcode (s := { s with agenda := rest }) frame hs)⟩

end Sys2Proof.Machine
end

section
/-! PROOFS. SUBMIT that answers `OK` is ACQUIRE, EXTEND and COMPLETE in one step (R190): what the commands hand to one another, then the
refinement. -/

namespace Sys2Proof.Machine

variable {s t : State} {h : Nat}

/-- ACQUIRE answers a handle exactly when it answers `OK` (R140). -/
theorem State.acquire_reply {pol : Polarity} {addr action : Word} {ow : Bool} {r : Reply} (hr : s.acquire pol addr action ow = .ok r) :
    (r.handle = none ∧ r.status ≠ .ok) ∨ ∃ h, r.handle = some h ∧ r.status = .ok := by
  obtain ⟨-, rfl⟩ | ⟨-, -, h, -, hr⟩ | ⟨-, -, hr⟩ := State.acquire_eq_ok.1 hr
  · exact .inl ⟨rfl, nofun⟩
  · obtain ⟨u, -, rfl⟩ := State.reuse_eq_ok.1 hr
    exact .inr ⟨h, rfl, rfl⟩
  · obtain ⟨-, rfl⟩ | ⟨h, u, -, rfl⟩ := State.allocate_eq_ok.1 hr
    · exact .inl ⟨rfl, nofun⟩
    · exact .inr ⟨h, rfl, rfl⟩

/-- ACQUIRE's operation changes neither the configuration nor the halt nor the output port (R20, log 5). -/
theorem State.acquire_keeps {pol : Polarity} {addr action : Word} {ow : Bool} {r : Reply} (hr : s.acquire pol addr action ow = .ok r) :
    r.state.cfg = s.cfg ∧ r.state.halted = s.halted ∧ r.state.result = s.result := by
  obtain ⟨-, rfl⟩ | ⟨-, -, h, -, hr⟩ | ⟨-, -, hr⟩ := State.acquire_eq_ok.1 hr
  · exact ⟨rfl, rfl, rfl⟩
  · obtain ⟨u, hu, rfl⟩ := State.reuse_eq_ok.1 hr
    obtain ⟨b, v, -, hv, rfl⟩ := State.releaseQueue_eq_ok.1 hu
    have heq := (releaseFrom_frame hv).1
    exact ⟨(congrArg State.cfg heq :), (congrArg State.halted heq :), (congrArg State.result heq :)⟩
  · obtain ⟨-, rfl⟩ | ⟨h, u, hu, rfl⟩ := State.allocate_eq_ok.1 hr
    · exact ⟨rfl, rfl, rfl⟩
    · obtain ⟨-, b, -, -, rfl⟩ := State.popFree_eq_ok.1 hu
      exact ⟨rfl, rfl, rfl⟩

/-- EXTEND's operation changes neither the configuration nor the halt nor the output port (R20, log 5). -/
theorem State.extend_keeps {a : ExtendArgs} {r : Reply} (hr : s.extend h a = .ok r) :
    r.state.cfg = s.cfg ∧ r.state.halted = s.halted ∧ r.state.result = s.result := by
  obtain ⟨-, rfl⟩ | ⟨-, -, rfl⟩ | ⟨-, -, rfl⟩ | ⟨-, -, -, rfl⟩ | ⟨-, -, p, u, v, d, hp, hv, -, -, rfl⟩ := State.extend_eq_ok.1 hr
  · exact ⟨rfl, rfl, rfl⟩
  · exact ⟨rfl, rfl, rfl⟩
  · exact ⟨rfl, rfl, rfl⟩
  · exact ⟨rfl, rfl, rfl⟩
  · obtain ⟨-, k, -, rfl⟩ := State.popPfree_eq_ok.1 hp
    obtain ⟨b, -, ⟨-, rfl⟩ | ⟨-, q, k, -, -, rfl⟩⟩ := State.enqueue_eq_ok.1 hv
    · exact ⟨rfl, rfl, rfl⟩
    · exact ⟨rfl, rfl, rfl⟩

/-- COMPLETE of an accepted buffer with a queue answers `OK` when it answers (R147, R148). -/
theorem State.complete_status {b : Buffer} {r : Reply} (hacc : Accepts s h b) (hq : b.phead ≠ none) (hr : s.complete h = .ok r) :
    r.status = .ok := by
  obtain ⟨hrej, -⟩ | ⟨-, -, -, ⟨-, hr⟩ | ⟨-, hr⟩⟩ := State.complete_eq_ok.1 hr
  · cases hacc.acceptsHandle.symm.trans hrej
  · obtain ⟨-, -, -, rfl⟩ := State.completeReused_eq_ok.1 hr
    rfl
  · obtain ⟨d, hd, -, ⟨hnone, -⟩ | ⟨-, u, v, -, -, rfl⟩⟩ := State.completeNew_eq_ok.1 hr
    · cases hacc.buffer.symm.trans hd
      exact absurd hnone hq
    · rfl

/-- EXTEND that answers `OK` leaves its buffer open, with a queue (R143). -/
theorem State.extend_accepts {a : ExtendArgs} {r : Reply} (hr : s.extend h a = .ok r) (hst : r.status = .ok) :
    ∃ b, Accepts r.state h b ∧ b.phead ≠ none := by
  obtain ⟨hne, -⟩ | ⟨-, b, p, ⟨h1, h2, hb, ho⟩, hbufs⟩ := State.extend_bufs hr
  · exact absurd hst hne
  obtain ⟨hcfg, -⟩ := State.extend_keeps hr
  refine ⟨extendedBuffer a p b, ⟨h1, hcfg ▸ h2, ?_, ho⟩, extendedBuffer_phead_ne_none⟩
  rw [hbufs, List.getElem?_set_self (lt_length_of_getElem? hb)]

/-- SUBMIT that answers `OK` is three commands that do (R190). -/
theorem State.submit_ok {a : SubmitArgs} {r : Reply} (hr : s.submit a = .ok r) (hst : r.status = .ok) :
    ∃ (h : Nat) (q e c : Reply), s.acquire a.pol a.addr a.action a.ow = .ok q ∧ q.status = .ok ∧ q.handle = some h ∧
      q.state.extend h (submitExtendArgs a h) = .ok e ∧ e.status = .ok ∧ e.state.complete h = .ok c ∧ c.status = .ok ∧
      r = { status := .ok, handle := some h, state := c.state } := by
  obtain ⟨-, rfl⟩ | ⟨-, -, rfl⟩ | ⟨-, -, rfl⟩ | ⟨-, -, q, hq, hend⟩ := State.submit_eq_ok.1 hr
  · cases hst
  · cases hst
  · cases hst
  have hreply := State.acquire_reply hq
  obtain ⟨hnone, rfl⟩ | ⟨h, hh, hinto⟩ := hend
  · obtain ⟨-, hne⟩ | ⟨h, hh, -⟩ := hreply
    · exact absurd hst hne
    · cases hnone.symm.trans hh
  obtain ⟨e, he, ⟨hne, rfl⟩ | ⟨hes, c, hc, rfl⟩⟩ := State.submitInto_eq_ok.1 hinto
  · exact absurd hst hne
  obtain ⟨hnone, -⟩ | ⟨-, -, hqs⟩ := hreply
  · cases hnone.symm.trans hh
  obtain ⟨b, hacc, hqueue⟩ := State.extend_accepts he hes
  exact ⟨h, q, e, c, hq, hqs, hh, he, hes, hc, State.complete_status hacc hqueue hc, rfl⟩

theorem Status.eq_ok_of_code {st : Status} (h : st.code = 0) : st = .ok := by
  revert h
  cases st <;> decide

/-- Settles O52: SUBMIT hands each state on as the commands' own steps do, because no operation reaches the output port. -/
theorem submitIsAcquireExtendComplete : Obligations.SubmitIsAcquireExtendComplete := by
  intro s t a h hconf ht hrun hres
  obtain ⟨hs, -, hbody⟩ := exec_eq_next_running ht hrun
  obtain ⟨r, hr, heq⟩ := Attempt.bind_eq_ok.1 hbody
  obtain rfl := Attempt.pure_eq_ok.1 heq
  obtain ⟨hcode, hh⟩ : r.status.code = 0 ∧ handleByte r.handle = h := by
    simpa [Reply.withHandle] using hres
  obtain ⟨j, q, e, c, hq, hqs, hqh, he, hes, hc, hcs, rfl⟩ := State.submit_ok hr (Status.eq_ok_of_code hcode)
  obtain ⟨hqcfg, hqhalt, hqres⟩ := State.acquire_keeps hq
  obtain ⟨hecfg, hehalt, heres⟩ := State.extend_keeps he
  have hqclear : q.withHandle.clearResult = q.state := State.clearResult_of_empty _ hqres
  have heclear : e.statusOnly.clearResult = e.state := State.clearResult_of_empty _ (heres.trans hqres)
  have hbyte : h.toNat = j := by
    obtain ⟨b, ⟨-, hle, -⟩, -⟩ := State.extend_accepts he hes
    obtain ⟨-, hmax, -⟩ := configValid_bounds hconf
    rw [hecfg, hqcfg, State.clearResult_cfg] at hle
    rw [← hh, handleByte, BitVec.toNat_ofNat]
    omega
  have hhandle : BitVec.ofNat 8 j = h := hh
  refine ⟨q.withHandle, e.statusOnly, c.statusOnly, exec_acquire_of_ok hs hq, ?_, exec_extend_of_ok (hqhalt.trans hs) ?_, ?_,
    exec_complete_of_ok (hehalt.trans (hqhalt.trans hs)) ?_, ?_, ?_⟩
  · simp [Reply.withHandle, hqs, hqh, hh, Status.code]
  · rw [hqclear, hbyte, ← hhandle]
    exact he
  · simp [Reply.statusOnly, hes, Status.code]
  · rw [heclear, hbyte]
    exact hc
  · simp [Reply.statusOnly, hcs, Status.code]
  · simp [Reply.statusOnly, Reply.withHandle, State.answer, hh, Status.code]

end Sys2Proof.Machine
end

section
/-! PROOFS. SUBMIT's next states, for a new buffer and for a live one, and where it fails (R190, R191, R151). -/

namespace Sys2Proof.Machine

variable {s t : State} {h : Nat}

/-- SUBMIT's result frame follows its answer (R99). -/
theorem exec_submit_of_ok {a : SubmitArgs} {r : Reply} (hs : s.halted = false) (hr : s.clearResult.submit a = .ok r) :
    exec (.submit (.ok a)) s = .next r.withHandle :=
  runStep_of_ok hs (Attempt.bind_eq_ok.2 ⟨r, hr, rfl⟩)

section
variable {a : SubmitArgs} (hr : InRange a.pol a.addr)
  (henc : (encodePacket s.cfg a.d a.pre.toNat a.post.toNat).isOk = true)
include hr henc

/-- SUBMIT succeeds where its three commands do (R190). -/
theorem State.submit_of_commands {u : State} {l : Option Nat} {c : Reply}
    (hq : s.acquire a.pol a.addr a.action a.ow = .ok { status := .ok, handle := some h, state := t })
    (he : t.extend h (submitExtendArgs a h) = .ok { status := .ok, handle := l, state := u }) (hc : u.complete h = .ok c) :
    s.submit a = .ok { status := .ok, handle := some h, state := c.state } :=
  State.submit_eq_ok.2 (.inr (.inr (.inr ⟨addressInRange_iff.2 hr, henc, _, hq,
    .inr ⟨h, rfl, State.submitInto_eq_ok.2 ⟨_, he, .inr ⟨rfl, c, hc, rfl⟩⟩⟩⟩)))

/-- SUBMIT fails where its EXTEND finds no pending record, with the one `Diag` (R190, R191). -/
theorem State.submit_of_noPending {b : Buffer}
    (hq : s.acquire a.pol a.addr a.action a.ow = .ok { status := .ok, handle := some h, state := t }) (hacc : Accepts t h b)
    (hp : t.pool.pfreeHead = none) (hhist : t.history = s.history) : s.submit a = .ok (s.exhausted .noPending) := by
  have henc' : (encodePacket t.cfg a.d a.pre.toNat a.post.toNat).isOk = true := by
    rw [(State.acquire_keeps hq).1]
    exact henc
  refine State.submit_eq_ok.2 (.inr (.inr (.inr ⟨addressInRange_iff.2 hr, henc, _, hq, .inr ⟨h, rfl, State.submitInto_eq_ok.2
    ⟨t.exhausted .noPending, State.extend_eq_ok.2 (.inr (.inr (.inr (.inl ⟨hacc.acceptsHandle, henc', hp, rfl⟩)))),
      .inl ⟨nofun, ?_⟩⟩⟩⟩)))
  simp only [State.exhausted, State.emit_history, hhist]
  rfl

end

/-- Settles O51: the address is looked at first, then ENCODE's answer; then ACQUIRE finds no buffer, or EXTEND no record. -/
theorem submitFailures : Obligations.SubmitFailures := by
  intro s a hs
  refine ⟨fun hr => ?_, fun hr => ?_⟩
  · have hout : addressInRange a.pol a.addr = false := Bool.eq_false_iff.2 (mt addressInRange_iff.1 hr)
    exact exec_submit_of_ok hs (State.submit_eq_ok.2 (.inl ⟨hout, rfl⟩))
  have hin := addressInRange_iff.2 hr
  refine ⟨fun hargs => ?_, fun henc => ?_, fun henc => ⟨fun hn hh => ?_, fun h b hn hh hb he h1 h2 hp => ?_,
    fun h b how hf h1 h2 hq hp => ?_⟩⟩
  · have hfalse : argsOk s.cfg a.d.length a.pre.toNat a.post.toNat = false := by
      rw [← Bool.not_eq_true, argsOk_iff]
      omega
    exact exec_submit_of_ok hs (State.submit_eq_ok.2 (.inr (.inl ⟨hin, encodePacket_of_args_false hfalse, rfl⟩)))
  · exact exec_submit_of_ok hs (State.submit_eq_ok.2 (.inr (.inr (.inl ⟨hin, henc, rfl⟩))))
  · have hacq : s.clearResult.acquire a.pol a.addr a.action a.ow = .ok (s.clearResult.exhausted .noBuffer) :=
      State.acquire_eq_ok.2 (.inr (.inr ⟨hin, fun how => State.findLive_of_none (s := s.clearResult) (hn how),
        State.allocate_eq_ok.2 (.inl ⟨hh, rfl⟩)⟩))
    exact exec_submit_of_ok hs (State.submit_eq_ok.2 (.inr (.inr (.inr ⟨hin, henc, _, hacq, .inl ⟨rfl, rfl⟩⟩))))
  · exact exec_submit_of_ok hs (State.submit_of_noPending (s := s.clearResult) hr henc
      (State.acquire_of_free (s := s.clearResult) hr hn hh hb he)
      ⟨h1, h2, List.getElem?_set_self (lt_length_of_getElem? hb), rfl⟩ hp rfl)
  · exact exec_submit_of_ok hs (State.submit_of_noPending (s := s.clearResult) hr henc
      (State.acquire_of_live (s := s.clearResult) hr how hf (State.releaseQueue_of_empty hf.1 hq))
      ⟨h1, h2, List.getElem?_set_self (lt_length_of_getElem? hf.1), rfl⟩ hp rfl)

/-! SUBMIT's states between its commands. -/

/-- The state after SUBMIT's ACQUIRE, or after its EXTEND: buffer `h` is `d`, the records are `m`, and `pl` is the pool (R190). -/
def State.prepared (s : State) (h : Nat) (d : Buffer) (m : List Packet) (pl : Pool) : State :=
  { s with bufs := s.bufs.set h d, pkts := m, pool := pl }

section
variable {d : Buffer} {m : List Packet} {pl : Pool}

theorem State.prepared_self (hlt : h < s.bufs.length) : (s.prepared h d m pl).bufs[h]? = some d := List.getElem?_set_self hlt

theorem State.prepared_ne {j : Nat} (hj : h ≠ j) : (s.prepared h d m pl).bufs[j]? = s.bufs[j]? := List.getElem?_set_ne hj

theorem State.prepared_accepts {b : Buffer} (hb : s.bufs[h]? = some b) (h1 : 1 ≤ h) (h2 : h ≤ s.cfg.numBuffers - 1)
    (ho : d.isOpen = true) : Accepts (s.prepared h d m pl) h d :=
  ⟨h1, h2, State.prepared_self (lt_length_of_getElem? hb), ho⟩

/-- SUBMIT's EXTEND makes its packet the whole queue of the buffer ACQUIRE returned (R143, R190). -/
theorem State.prepared_extend {a : ExtendArgs} {p : Nat} {k : Packet} (hacc : Accepts (s.prepared h d m pl) h d) (hq : d.phead = none)
    (hst : d.state.code.toNat < 5) (henc : (encodePacket s.cfg a.d a.pre.toNat a.post.toNat).isOk = true)
    (hp : pl.pfreeHead = some p) (hk : m[p]? = some k) :
    (s.prepared h d m pl).extend h a =
      .ok ⟨.ok, some h, s.prepared h (extendedBuffer a p d) (m.set p (extendPacket a)) { pl with pfreeHead := k.next }⟩ := by
  rw [State.extend_of_enqueue hacc hst henc hp hk (State.enqueue_of_empty hacc.buffer hq)]
  simp only [State.prepared, List.set_set]

/-- SUBMIT's COMPLETE closes a live buffer that ACQUIRE returned (R148, R190). -/
theorem State.prepared_complete (hacc : Accepts (s.prepared h d m pl) h d) (hl : d.linked = true) (hlive : d.state.live = true) :
    (s.prepared h d m pl).complete h =
      .ok ⟨.ok, some h, { s.prepared h { d with isOpen := false } m pl with latch := s.latch || decide (d.state = .load) }⟩ := by
  rw [State.complete_of_live hacc hl hlive]
  simp only [State.prepared, List.set_set]

end

/-! SUBMIT of a new buffer. -/

/-- COMPLETE of a new buffer: the record at the head of its queue is loaded, and it stands right after the buffer being played
(R147, R136, R133). -/
theorem State.complete_of_record {b cb nb : Buffer} {p n : Nat} {k : Packet} {a : List Nat} (hacc : Accepts s h b)
    (hl : b.linked = false) (hst : b.state = .load) (hp : b.phead = some p) (hk : s.pkts[p]? = some k)
    (hlen : k.bytes.length = k.len.toNat) (ha : encodePacket s.cfg k.bytes k.pre.toNat k.post.toNat = .ok a)
    (hc : s.bufs[s.eng.cursor]? = some cb) (hcn : cb.next = some n) (hn : s.bufs[n]? = some nb) (hhc : h ≠ s.eng.cursor)
    (hhn : h ≠ n) :
    ∃ m, s.complete h = .ok { status := .ok, handle := some h, state := { s with
        bufs := m
        pkts := s.pkts.set p { k with next := s.pool.pfreeHead }
        pool := { s.pool with pfreeHead := some p }
        history := s.history ++ if k.next = none ∧ b.replyWhen = .atStart then [.reply b.replyToken] else [] } } ∧
      m[h]? = some { loadedBuffer b k a b with next := some n, prev := some s.eng.cursor, linked := true, isOpen := false } ∧
      ∀ j ≠ h, m[j]? = s.bufs[j]?.map (linkedAt s.eng.cursor n h j) := by
  obtain ⟨u, hu, hueq⟩ : ∃ u, s.loadHead h = .ok u ∧ u = _ :=
    ⟨_, State.loadHead_of_record hacc.buffer hst hp hk hlen ha, rfl⟩
  have hcur : u.eng.cursor = s.eng.cursor := by rw [hueq]
  have hself : u.bufs[h]? = some (loadedBuffer b k a b) := by
    rw [hueq]
    exact List.getElem?_set_self (lt_length_of_getElem? hacc.buffer)
  have hother : ∀ j, h ≠ j → u.bufs[j]? = s.bufs[j]? := fun j hj => by
    rw [hueq]
    exact List.getElem?_set_ne hj
  obtain ⟨v, hv, hveq, hvbufs⟩ := State.linkAfter_of_next ((hother _ hhc).trans hc) hcn ((hother _ hhn).trans hn) hhc hhn
  refine ⟨v.bufs.modify h fun b => { b with isOpen := false }, ?_, ?_, fun j hj => ?_⟩
  · rw [State.complete_of_load hacc hl hst (by rw [hp]; nofun) hu (by rw [hcur]; exact hv), hveq, hueq]
    rfl
  · simp [hvbufs, hself, linkedAt, loadedBuffer, hhc, hhn]
  · rw [List.getElem?_modify_ne _ _ hj.symm, hvbufs, hother j hj.symm]

/-- Settles O49: a free buffer takes one record, which LOAD_HEAD encodes again and gives back. -/
theorem submitStartsANewBuffer : Obligations.SubmitStartsANewBuffer := by
  intro s a h p n b cb nb k r hs hr hn henc hd hh hb he h1 h2 hp hk hc hcn hnb hhc hhn
  have hok : (encodePacket s.cfg a.d a.pre.toNat a.post.toNat).isOk = true := Encoded.isOk_iff.2 ⟨r, henc⟩
  have hacq : s.clearResult.acquire a.pol a.addr a.action a.ow =
      .ok ⟨.ok, some h, s.clearResult.prepared h (takenBuffer a.pol a.addr a.action b) s.pkts
        { s.pool with freeHead := b.fnext }⟩ :=
    State.acquire_of_free (s := s.clearResult) hr hn hh hb he
  have hext := State.prepared_extend (a := submitExtendArgs a h) (d := takenBuffer a.pol a.addr a.action b)
    (pl := { s.pool with freeHead := b.fnext }) (State.prepared_accepts (s := s.clearResult) hb h1 h2 rfl) rfl
    (BufState.code_lt_of_live rfl) hok hp hk
  obtain ⟨m, hcomp, hm, hmo⟩ := State.complete_of_record (k := extendPacket (submitExtendArgs a h)) (a := r)
    (State.prepared_accepts (s := s.clearResult)
      (d := extendedBuffer (submitExtendArgs a h) p (takenBuffer a.pol a.addr a.action b)) hb h1 h2 rfl) rfl rfl rfl
    (List.getElem?_set_self (lt_length_of_getElem? hk)) (toNat_count hd).symm henc ((State.prepared_ne hhc).trans hc) hcn
    ((State.prepared_ne hhn).trans hnb) hhc hhn
  refine ⟨_, exec_submit_of_ok hs (State.submit_of_commands (s := s.clearResult) hr hok hacq hext hcomp),
    linkedAfter_of_map hc hnb fun j hj => (hmo j hj).trans (congrArg (Option.map _) (State.prepared_ne hj.symm)), hm.trans ?_, ?_⟩
  · simp [loadedBuffer, extendedBuffer, takenBuffer, extendPacket, submitExtendArgs, State.prepared]
  · simp [extendedBuffer, takenBuffer, extendPacket, submitExtendArgs, State.prepared, Reply.withHandle, State.answer, handleByte,
      hp, Status.code, State.clearResult]

/-! SUBMIT of a live buffer. -/

/-- What POP_PFREE finds after RELEASE_QUEUE (R131, R132): the queue, last record first, then what was free before. -/
theorem QueueReleased.pop {l : Option Nat} {q free rest : List Nat} {p : Nat} (hrel : QueueReleased s t q) (hq : PendingListIs s l q)
    (hfree : PendingListIs s s.pool.pfreeHead free) (hdis : ∀ j ∈ q, j ∉ free) (hsplit : q.reverse ++ free = p :: rest) :
    t.pool.pfreeHead = some p ∧ p ∉ rest ∧ ∃ k, t.pkts[p]? = some k ∧ Chain t.pnextOf none k.next rest := by
  obtain ⟨-, hkeep, hchain⟩ := hrel
  obtain ⟨-, hqd, hqb, -⟩ := hq
  obtain ⟨hfc, hfd, hfb, -⟩ := hfree
  have hnodup : (p :: rest).Nodup :=
    hsplit ▸ List.nodup_append'.2 ⟨List.nodup_reverse.2 hqd, hfd, fun j hj => hdis j (List.mem_reverse.1 hj)⟩
  have hlt : p < s.pkts.length := by
    have hmem : p ∈ q.reverse ++ free := hsplit ▸ List.mem_cons_self
    obtain hp | hp := List.mem_append.1 hmem
    · exact hqb p (List.mem_reverse.1 hp)
    · exact hfb p hp
  obtain ⟨n, hk⟩ := hkeep p _ (List.getElem?_eq_getElem hlt)
  obtain ⟨hhead, hrest⟩ : Chain t.pnextOf none t.pool.pfreeHead (p :: rest) := hsplit ▸ hchain free hfc hdis
  exact ⟨hhead, (List.nodup_cons.1 hnodup).1, _, hk, State.pnextOf_of_pkt hk ▸ hrest⟩

/-- EXTEND keeps a live buffer live, and in `LOAD` if it was (R144). -/
theorem extendedBuffer_live {a : ExtendArgs} {p : Nat} {b : Buffer} (h : b.state.live = true) :
    (extendedBuffer a p b).state.live = true ∧ decide ((extendedBuffer a p b).state = .load) = decide (b.state = .load) := by
  unfold extendedBuffer
  revert h
  cases b.state <;> simp [BufState.live]

/-- Settles O50: the old queue is released, so that the new record, taken from what is then free, is all of the queue. -/
theorem submitOverwritesTheLiveBuffer : Obligations.SubmitOverwritesTheLiveBuffer := by
  intro s a h p b q free rest hs hr how hf hl h1 h2 henc hq hfree hdis hsplit
  have hb := hf.1
  obtain ⟨hlive, -⟩ := hf.live
  obtain ⟨hlive', hload⟩ := extendedBuffer_live (a := submitExtendArgs a h) (p := p) (b := reusedBuffer a.action b) hlive
  obtain ⟨m, l, hrelease, hqueue⟩ := State.releaseQueue_eq_released (s := s.clearResult) hb hq
  have hacq : s.clearResult.acquire a.pol a.addr a.action a.ow =
      .ok ⟨.ok, some h, s.clearResult.prepared h (reusedBuffer a.action b) m { s.pool with pfreeHead := l }⟩ :=
    State.acquire_of_live (s := s.clearResult) hr how hf hrelease
  have hrel := hqueue (s.clearResult.prepared h (reusedBuffer a.action b) m { s.pool with pfreeHead := l }) rfl rfl
  obtain ⟨hhead, hprest, k, hk, hchain⟩ := hrel.pop hq hfree hdis hsplit
  obtain ⟨hout, hkeep, -⟩ := hrel
  have hext := State.prepared_extend (a := submitExtendArgs a h) (State.prepared_accepts (s := s.clearResult)
    (d := reusedBuffer a.action b) hb h1 h2 rfl) rfl (BufState.code_lt_of_live hlive) henc hhead hk
  have hcomp := State.prepared_complete (State.prepared_accepts (s := s.clearResult)
    (d := extendedBuffer (submitExtendArgs a h) p (reusedBuffer a.action b))
    (m := m.set p (extendPacket (submitExtendArgs a h))) (pl := { s.pool with pfreeHead := k.next }) hb h1 h2 rfl) hl hlive'
  rw [hload] at hcomp
  refine ⟨_, exec_submit_of_ok hs (State.submit_of_commands (s := s.clearResult) hr henc hacq hext hcomp), ?_,
    List.getElem?_set_self (lt_length_of_getElem? hk), fun j hjq hjp => ?_, fun j c hjp hc => ?_, ?_⟩
  · refine hchain.congr fun j hj => ?_
    have hjp : p ≠ j := by rintro rfl; exact hprest hj
    exact congrArg (Option.bind · _) (List.getElem?_set_ne hjp).symm
  · exact (List.getElem?_set_ne (Ne.symm hjp)).trans (hout j hjq)
  · obtain ⟨n, hn⟩ := hkeep j c hc
    exact ⟨n, (List.getElem?_set_ne (Ne.symm hjp)).trans hn⟩
  · rfl

end Sys2Proof.Machine
end

section
/-! PROOFS. Fatal entry and what follows it (R215 to R217): a body that runs to its end never halts the block, in a sound state every body
does so, and a halted block has no step but reset. -/

namespace Sys2Proof.Machine

variable {s t : State}

/-- A body that runs to its end leaves `halted` as it was. -/
theorem bodyOf_halted {i : Instr} (h : bodyOf i s = .ok t) : t.halted = s.halted := by
  have hw : Writes (.links :: writes i) s t := bodyOf_writes (.inl (by simp)) (by simp) h
  obtain ⟨-, hhalt, -⟩ := hw.constants
  exact hhalt

/-- A step that halts the block took a fatal fault in its body (R216). -/
theorem exec_eq_next_halted {i : Instr} (h : exec i s = .next t) (ht : t.halted = true) :
    ∃ c, bodyOf i s.clearResult = .error (.fatal c) ∧ t = s.clearResult.fatalEntry c := by
  obtain ⟨hs, -, hok | hfatal⟩ := exec_eq_next h
  · have hrun : t.halted = false := (bodyOf_halted hok).trans hs
    cases hrun.symm.trans ht
  · exact hfatal

/-- A halted block has no step, MGR_INVOKE with its latch clear included (R216). -/
theorem exec_of_halted (i : Instr) (hs : s.halted = true) : exec i s = .fault .halted := by
  obtain rfl | hi := eq_or_ne i .mgrInvoke
  · exact (if_neg fun h => Bool.false_ne_true (h.1.symm.trans hs)).trans (runStep_halted hs)
  · exact (exec_eq_runStep fun h => absurd h hi).trans (runStep_halted hs)

/-- Settles O19: the body of every step answers in a sound state and keeps it sound, so it takes no fatal fault. -/
theorem soundBlockNeverStops : Obligations.SoundBlockNeverStops := by
  intro i s hs hlatch
  have hclear : SoundAt s.openCount s.clearResult := SoundAt.withOutputs ⟨hs, rfl⟩ _ _ _ _ _ _
  obtain ⟨t, hbody, ht, -⟩ := hclear.bodyOf i
  exact ⟨t, (exec_eq_runStep hlatch).trans (runStep_of_ok hs.running hbody), ht.running⟩

/-- Settles O12: the entry of a fatal fault is made in the state before the step, whatever its body wrote. -/
theorem fatalFaultDiscardsTheStep : Obligations.FatalFaultDiscardsTheStep := by
  refine ⟨fun i s t h ht => ?_, fun i s => exec_of_halted i⟩
  obtain ⟨c, -, rfl⟩ := exec_eq_next_halted h ht
  exact ⟨c, rfl⟩

/-- Settles O13: a step is the reset event or an instruction, and a halted block has no instruction to run. -/
theorem onlyResetLeavesTheHalt : Obligations.OnlyResetLeavesTheHalt := by
  intro s t hs h
  obtain ⟨-, ⟨rest, hagenda, rfl⟩ | ⟨i, l, n, hexec⟩⟩ := step_eq_next h
  · exact ⟨⟨rest, hagenda⟩, rfl, rfl, rfl⟩
  · obtain ⟨hrun, -⟩ := exec_eq_next hexec
    cases hs.symm.trans hrun

end Sys2Proof.Machine
end

section
/-! PROOFS. A failed command is precise (R211 to R213, R191): each command's answer is `OK`, or it is its status and the state before it,
with the one `Diag` of a class (a) failure. -/

namespace Sys2Proof.Machine

variable {s t u : State} {h : Nat} {st : Status} {r : Reply}

/-- An answer with status `st` in state `t` is precise for a command that began in `s`: a failure of class (a) has added its `Diag` and
nothing else (R211), one of class (b) has changed nothing (R212). -/
inductive Precise (s : State) : State → Status → Prop
  | done {t : State} {st : Status} : st.classA = false → st.classB = false → Precise s t st
  | exhausted {st : Status} : st.classA = true → Precise s (s.emit (.diag st)) st
  | rejected {st : Status} : st.classB = true → Precise s s st

/-- Every status has a code of its own (R210). -/
theorem Status.code_injective {a b : Status} (h : a.code = b.code) : a = b := by
  revert h
  cases a <;> cases b <;> decide

/-- No status is of both classes (R211, R212). -/
theorem Status.classA_of_classB (h : st.classB = true) : st.classA = false := by
  revert h
  cases st <;> decide

/-- A precise answer of a failure, as the state and the history before it. -/
theorem Precise.state_eq (h : Precise s t st) (hst : st.classA = true ∨ st.classB = true) :
    t = { s with history := s.history ++ if st.classA = true then [.diag st] else [] } := by
  cases h with
  | done ha hb => simp [ha, hb] at hst
  | exhausted ha => rw [if_pos ha]; rfl
  | rejected hb => simp [Status.classA_of_classB hb]

/-- A failure whose status stands first in the result frame (R92) is the answer's. -/
theorem Precise.answer_eq {l : List Byte} {st' : Status} (h : Precise s t st)
    (hres : (t.answer st l).result.head? = some st'.code) (hst : st'.classA = true ∨ st'.classB = true) :
    t.answer st l = { s with result := (t.answer st l).result,
                             history := s.history ++ if st'.classA = true then [.diag st'] else [] } := by
  obtain rfl : st = st' := Status.code_injective (Option.some.inj hres)
  exact congrArg (·.answer st l) (h.state_eq hst)

/-- SUBMIT's roll-back keeps the answer precise where the steps before it left the history (R190, R191). -/
theorem Precise.rollBack (h : Precise t u st) (hh : t.history = s.history) : Precise s (s.setHistory u.history) st := by
  cases h with
  | done ha hb => exact .done ha hb
  | exhausted ha => rw [State.emit_history, hh]; exact .exhausted ha
  | rejected hb => rw [hh]; exact .rejected hb

/-! The commands. -/

/-- ACQUIRE that answers a handle leaves the history as it was (R140). -/
theorem State.acquire_history {pol : Polarity} {addr action : Word} {ow : Bool} (hr : s.acquire pol addr action ow = .ok r)
    (hh : r.handle = some h) : r.state.history = s.history := by
  obtain ⟨-, rfl⟩ | ⟨-, -, j, -, hr⟩ | ⟨-, -, hr⟩ := State.acquire_eq_ok.1 hr
  · rfl
  · obtain ⟨u, hu, rfl⟩ := State.reuse_eq_ok.1 hr
    obtain ⟨b, v, -, hv, rfl⟩ := State.releaseQueue_eq_ok.1 hu
    exact (congrArg State.history (releaseFrom_frame hv).1 :)
  · obtain ⟨-, rfl⟩ | ⟨j, u, hu, rfl⟩ := State.allocate_eq_ok.1 hr
    · cases hh
    · obtain ⟨-, b, -, -, rfl⟩ := State.popFree_eq_ok.1 hu
      rfl

theorem State.acquire_precise {pol : Polarity} {addr action : Word} {ow : Bool} (hr : s.acquire pol addr action ow = .ok r) :
    Precise s r.state r.status := by
  obtain ⟨-, rfl⟩ | ⟨-, -, j, -, hr⟩ | ⟨-, -, hr⟩ := State.acquire_eq_ok.1 hr
  · exact .rejected rfl
  · obtain ⟨u, -, rfl⟩ := State.reuse_eq_ok.1 hr
    exact .done rfl rfl
  · obtain ⟨-, rfl⟩ | ⟨j, u, -, rfl⟩ := State.allocate_eq_ok.1 hr
    · exact .exhausted rfl
    · exact .done rfl rfl

theorem State.extend_precise {a : ExtendArgs} (hr : s.extend h a = .ok r) : Precise s r.state r.status := by
  obtain ⟨-, rfl⟩ | ⟨-, -, rfl⟩ | ⟨-, -, rfl⟩ | ⟨-, -, -, rfl⟩ | ⟨-, -, p, u, v, d, -, -, -, -, rfl⟩ := State.extend_eq_ok.1 hr
  · exact .rejected rfl
  · exact .rejected rfl
  · exact .exhausted rfl
  · exact .exhausted rfl
  · exact .done rfl rfl

/-- COMPLETE is precise but of a new buffer with an empty queue, which it frees with its `BAD_ARG` (R147). -/
theorem State.complete_precise (hne : ¬ ∃ b, Accepts s h b ∧ b.linked = false ∧ b.phead = none) (hr : s.complete h = .ok r) :
    Precise s r.state r.status := by
  obtain ⟨-, rfl⟩ | ⟨hacc, b, hb, ⟨-, hr⟩ | ⟨hl, hr⟩⟩ := State.complete_eq_ok.1 hr
  · exact .rejected rfl
  · obtain ⟨-, -, -, rfl⟩ := State.completeReused_eq_ok.1 hr
    exact .done rfl rfl
  · obtain ⟨c, hacc⟩ := State.acceptsHandle_iff.1 hacc
    cases hb.symm.trans hacc.buffer
    obtain ⟨d, hd, -, ⟨hq, -⟩ | ⟨-, u, v, -, -, rfl⟩⟩ := State.completeNew_eq_ok.1 hr
    · cases hb.symm.trans hd
      exact absurd ⟨b, hacc, hl, hq⟩ hne
    · exact .done rfl rfl

theorem State.cancel_precise (hr : s.cancel h = .ok r) : Precise s r.state r.status := by
  obtain ⟨-, rfl⟩ | ⟨-, u, b, -, -, ⟨-, -, rfl⟩ | ⟨-, -, rfl⟩⟩ := State.cancel_eq_ok.1 hr
  · exact .rejected rfl
  · exact .done rfl rfl
  · exact .done rfl rfl

theorem State.submit_precise {a : SubmitArgs} (hr : s.submit a = .ok r) : Precise s r.state r.status := by
  obtain ⟨-, rfl⟩ | ⟨-, -, rfl⟩ | ⟨-, -, rfl⟩ | ⟨-, -, q, hq, hend⟩ := State.submit_eq_ok.1 hr
  · exact .rejected rfl
  · exact .rejected rfl
  · exact .exhausted rfl
  obtain ⟨-, rfl⟩ | ⟨h, hh, hinto⟩ := hend
  · exact (State.acquire_precise hq :)
  obtain ⟨e, he, ⟨-, rfl⟩ | ⟨-, c, -, rfl⟩⟩ := State.submitInto_eq_ok.1 hinto
  · exact (State.extend_precise he).rollBack (State.acquire_history hq hh)
  · exact .done rfl rfl

theorem State.scanNext_precise (hr : s.scanNext = .ok t) : ∃ u st l, t = u.answer st l ∧ Precise s u st := by
  obtain ⟨ring, -, hr⟩ := Attempt.bind_eq_ok.1 hr
  obtain ⟨live, -, hr⟩ := Attempt.bind_eq_ok.1 hr
  split at hr
  · cases hr
    exact ⟨_, _, _, rfl, .done rfl rfl⟩
  · obtain ⟨b, -, hr⟩ := Attempt.bind_eq_ok.1 hr
    cases hr
    exact ⟨_, _, _, rfl, .done rfl rfl⟩

/-! Every step. -/

/-- A command that ends in its answer is precise where its operation is. -/
theorem precise_of_answer {x : Attempt Reply} {f : Reply → List Byte}
    (hx : ∀ r, x = .ok r → Precise s r.state r.status) (ht : (do let r ← x; return r.state.answer r.status (f r)) = Except.ok t) :
    ∃ u st l, t = u.answer st l ∧ Precise s u st := by
  obtain ⟨r, hr, ht⟩ := Attempt.bind_eq_ok.1 ht
  exact ⟨r.state, r.status, f r, Attempt.pure_eq_ok.1 ht, hx r hr⟩

/-- A step answers precisely, or it is no host command and leaves the output port empty. -/
theorem bodyOf_precise {i : Instr} (hs : s.result = [])
    (hne : ¬ ∃ h b, i = .complete (.ok h) ∧ Accepts s h.toNat b ∧ b.linked = false ∧ b.phead = none)
    (ht : bodyOf i s = .ok t) : t.result = [] ∨ ∃ u st l, t = u.answer st l ∧ Precise s u st := by
  cases i with
  | tick => exact .inl ((tickBody_result ht).trans hs)
  | mgrInvoke => exact .inl ((managerBody_result ht).trans hs)
  | badOpcode _ => cases ht; exact .inr ⟨_, _, _, rfl, .rejected rfl⟩
  | acquire a =>
    cases a with
    | malformed _ => cases ht; exact .inr ⟨_, _, _, rfl, .rejected rfl⟩
    | ok a => exact .inr (precise_of_answer (fun _ => State.acquire_precise) ht)
  | extend a =>
    cases a with
    | malformed _ => cases ht; exact .inr ⟨_, _, _, rfl, .rejected rfl⟩
    | ok a => exact .inr (precise_of_answer (fun _ => State.extend_precise) ht)
  | complete a =>
    cases a with
    | malformed _ => cases ht; exact .inr ⟨_, _, _, rfl, .rejected rfl⟩
    | ok h => exact .inr (precise_of_answer (fun _ => State.complete_precise fun ⟨b, hb⟩ => hne ⟨h, b, rfl, hb⟩) ht)
  | cancel a =>
    cases a with
    | malformed _ => cases ht; exact .inr ⟨_, _, _, rfl, .rejected rfl⟩
    | ok h => exact .inr (precise_of_answer (fun _ => State.cancel_precise) ht)
  | submit a =>
    cases a with
    | malformed _ => cases ht; exact .inr ⟨_, _, _, rfl, .rejected rfl⟩
    | ok a => exact .inr (precise_of_answer (fun _ => State.submit_precise) ht)
  | freeBuffers a =>
    cases a with
    | malformed _ => cases ht; exact .inr ⟨_, _, _, rfl, .rejected rfl⟩
    | ok _ =>
      obtain ⟨c, -, ht⟩ := Attempt.bind_eq_ok.1 ht
      cases ht
      exact .inr ⟨_, _, _, rfl, .done rfl rfl⟩
  | packetsSent a | resetScan a =>
    cases a with
    | malformed _ => cases ht; exact .inr ⟨_, _, _, rfl, .rejected rfl⟩
    | ok _ => cases ht; exact .inr ⟨_, _, _, rfl, .done rfl rfl⟩
  | scanNext a =>
    cases a with
    | malformed _ => cases ht; exact .inr ⟨_, _, _, rfl, .rejected rfl⟩
    | ok _ => exact .inr (State.scanNext_precise ht)

/-- Settles O27: every command fails before its first write, but SUBMIT, which puts the state before it back and keeps the `Diag`. -/
theorem failedCommandChangesNothing : Obligations.FailedCommandChangesNothing := by
  intro i s t st h hrun hres hst hne
  obtain ⟨-, -, hbody⟩ := exec_eq_next_running h hrun
  obtain hnone | ⟨u, st', l, rfl, hprec⟩ := bodyOf_precise (s := s.clearResult) rfl hne hbody
  · rw [hnone] at hres
    cases hres
  · exact hprec.answer_eq hres hst

end Sys2Proof.Machine
end

section
/-! PROOFS. Which steps raise which fatal faults (R215): the codes each operation can stop with, up to the body of every step. -/

namespace Sys2Proof.Machine

variable {cs : List FatalCode} {α β : Type}

/-- A piece of a step stops with a fatal fault of the list, if with one at all (R215). -/
def Raises (cs : List FatalCode) (x : Attempt α) : Prop := ∀ c, x = .error (.fatal c) → c ∈ cs

/-! How pieces are put together. -/

theorem Raises.ok (a : α) : Raises cs (.ok a : Attempt α) := nofun

theorem Raises.pure (a : α) : Raises cs (pure a : Attempt α) := nofun

theorem Raises.model (f : Fault) : Raises cs (.error (.model f) : Attempt α) := nofun

theorem Raises.raise {c : FatalCode} (hc : c ∈ cs) : Raises cs (raise c : Attempt α) := by
  rintro _ ⟨⟩
  exact hc

theorem Raises.bind {x : Attempt α} {f : α → Attempt β} (hx : Raises cs x) (hf : ∀ a, Raises cs (f a)) : Raises cs (x >>= f) := by
  intro c h
  obtain h | ⟨a, -, h⟩ := Attempt.bind_eq_error.1 h
  · exact hx c h
  · exact hf a c h

theorem Raises.ite {p : Prop} [Decidable p] {x y : Attempt α} (hx : Raises cs x) (hy : Raises cs y) :
    Raises cs (if p then x else y) := by
  split
  · exact hx
  · exact hy

/-! What reads no buffer state stops with `F_RING` alone (R62). -/

section
variable (hring : .ring ∈ cs)
include hring

theorem State.buf_raises (s : State) (h : Nat) : Raises cs (s.buf h) := by
  unfold State.buf
  split
  · exact .ok _
  · exact .raise hring

theorem State.pkt_raises (s : State) (p : Nat) : Raises cs (s.pkt p) := by
  unfold State.pkt
  split
  · exact .ok _
  · exact .raise hring

theorem handleOf_raises (l : Option Nat) : Raises cs (handleOf l) := by
  cases l with
  | none => exact .raise hring
  | some h => exact .ok h

theorem State.popPfree_raises (s : State) : Raises cs s.popPfree :=
  (handleOf_raises hring _).bind fun p => (s.pkt_raises hring p).bind fun _ => .pure _

theorem releaseFrom_raises (n : Nat) (l : Option Nat) (s : State) : Raises cs (releaseFrom n l s) := by
  induction n generalizing l s with
  | zero =>
    cases l with
    | none => exact .ok s
    | some p => exact (s.pkt_raises hring p).bind fun _ => .model _
  | succ n ih =>
    cases l with
    | none => exact .ok s
    | some p => exact (s.pkt_raises hring p).bind fun k => ih k.next _

theorem State.releaseQueue_raises (s : State) (h : Nat) : Raises cs (s.releaseQueue h) :=
  (s.buf_raises hring h).bind fun _ => (releaseFrom_raises hring _ _ s).bind fun _ => .pure _

theorem State.linkAfter_raises (s : State) (c h : Nat) : Raises cs (s.linkAfter c h) :=
  (s.buf_raises hring c).bind fun _ => (handleOf_raises hring _).bind fun n => (s.buf_raises hring n).bind fun _ => .pure _

theorem State.unlink_raises (s : State) (h : Nat) : Raises cs (s.unlink h) :=
  (s.buf_raises hring h).bind fun _ => (handleOf_raises hring _).bind fun pv => (handleOf_raises hring _).bind fun nx =>
    (s.buf_raises hring pv).bind fun _ => (s.buf_raises hring nx).bind fun _ => .pure _

theorem State.ringFrom_raises (s : State) (n : Nat) (l : Option Nat) : Raises cs (s.ringFrom n l) := by
  induction n generalizing l with
  | zero => exact .ite (.ok _) (.raise hring)
  | succ n ih =>
    exact .ite (.ok _) ((handleOf_raises hring l).bind fun h => (s.buf_raises hring h).bind fun b => (ih b.next).bind fun _ => .pure _)

theorem State.ringOrder_raises (s : State) : Raises cs s.ringOrder :=
  (s.buf_raises hring 0).bind fun b => s.ringFrom_raises hring _ b.next

theorem State.linkTail_raises (s : State) (h p : Nat) (b : Buffer) : Raises cs (s.linkTail h p b) :=
  .ite (.pure _) ((handleOf_raises hring _).bind fun q => (s.pkt_raises hring q).bind fun _ => .pure _)

theorem State.enqueue_raises (s : State) (h p : Nat) : Raises cs (s.enqueue h p) :=
  (s.buf_raises hring h).bind fun b => (s.linkTail_raises hring h p b).bind fun _ => .pure _

theorem State.freeFrom_raises (s : State) (n : Nat) (seen : List Nat) (l : Option Nat) : Raises cs (s.freeFrom n seen l) := by
  induction n generalizing seen l with
  | zero =>
    cases l with
    | none => exact .ok _
    | some h => exact (s.buf_raises hring h).bind fun _ => .pure _
  | succ n ih =>
    cases l with
    | none => exact .ok _
    | some h => exact .ite (.ok _) ((s.buf_raises hring h).bind fun b => ih (h :: seen) b.fnext)

theorem State.entry_raises (s : State) (h i : Nat) : Raises cs (s.entry h i) := by
  refine (s.buf_raises hring h).bind fun b => ?_
  split
  · exact .pure _
  · exact .ite (.model _) (.pure _)

end

/-! What reads a buffer state stops with `F_BAD_STATE` too (R22, R44, R138). -/

theorem expectState_raises (hbad : .badState ∈ cs) (c : Bool) : Raises cs (expectState c) := .ite (.ok _) (.raise hbad)

theorem extendedState_raises (hbad : .badState ∈ cs) (st : BufState) : Raises cs (extendedState st) := by
  cases st with
  | run | reload | load | empty | fixed => exact .ok _
  | reserved5 | reserved6 | reserved7 => exact .raise hbad

section
variable (hring : .ring ∈ cs) (hbad : .badState ∈ cs)
include hring hbad

theorem expectLive_raises (b : Buffer) : Raises cs (expectLive b) := by
  unfold expectLive
  split
  · exact .ok _
  · exact .ok _
  · exact .ok _
  · exact .raise hring
  · exact .raise hbad

theorem State.popFree_raises (s : State) : Raises cs s.popFree :=
  (handleOf_raises hring _).bind fun h => (s.buf_raises hring h).bind fun _ => (expectState_raises hbad _).bind fun _ => .pure _

/-! ACQUIRE. -/

theorem State.findLiveIn_raises (s : State) (addr : Word) (pol : Polarity) (ring : List Nat) :
    Raises cs (s.findLiveIn addr pol ring) := by
  induction ring with
  | nil => exact .ok _
  | cons h rest ih =>
    exact (s.buf_raises hring h).bind fun b => (expectLive_raises hring hbad b).bind fun _ => .ite (.pure _) ih

theorem State.overwriteTarget_raises (s : State) (addr : Word) (pol : Polarity) (ow : Bool) :
    Raises cs (s.overwriteTarget addr pol ow) :=
  .ite ((s.ringOrder_raises hring).bind fun ring => s.findLiveIn_raises hring hbad addr pol ring) (.pure _)

theorem State.allocate_raises (s : State) (pol : Polarity) (addr action : Word) : Raises cs (s.allocate pol addr action) :=
  .ite (.pure _) ((s.popFree_raises hring hbad).bind fun _ => .pure _)

theorem State.acquire_raises (s : State) (pol : Polarity) (addr action : Word) (ow : Bool) :
    Raises cs (s.acquire pol addr action ow) := by
  refine .ite (.pure _) ((s.overwriteTarget_raises hring hbad addr pol ow).bind fun live => ?_)
  cases live with
  | some h => exact (s.releaseQueue_raises hring h).bind fun _ => .pure _
  | none => exact s.allocate_raises hring hbad pol addr action

/-! EXTEND, CANCEL, COMPLETE of a live buffer. -/

theorem State.extend_raises (s : State) (h : Nat) (a : ExtendArgs) : Raises cs (s.extend h a) := by
  refine .ite (.pure _) ?_
  split
  · exact .pure _
  · exact .pure _
  · exact .ite (.pure _) ((s.popPfree_raises hring).bind fun _ => (State.enqueue_raises hring _ h _).bind fun v =>
      (v.buf_raises hring h).bind fun b => (extendedState_raises hbad b.state).bind fun _ => .pure _)

theorem State.cancelEnd_raises (s : State) (h : Nat) (b : Buffer) : Raises cs (s.cancelEnd h b) :=
  .ite ((expectLive_raises hring hbad b).bind fun _ => .pure _) ((expectState_raises hbad _).bind fun _ => .pure _)

theorem State.cancel_raises (s : State) (h : Nat) : Raises cs (s.cancel h) :=
  .ite (.pure _) ((s.releaseQueue_raises hring h).bind fun _ => (State.buf_raises hring _ h).bind fun b =>
    (State.cancelEnd_raises hring hbad _ h b).bind fun _ => .pure _)

theorem State.completeReused_raises (s : State) (h : Nat) : Raises cs (s.completeReused h) :=
  (s.buf_raises hring h).bind fun b => (expectLive_raises hring hbad b).bind fun _ => .pure _

/-! SCAN_NEXT. -/

theorem State.liveIn_raises (s : State) (ring : List Nat) : Raises cs (s.liveIn ring) := by
  induction ring with
  | nil => exact .ok _
  | cons h rest ih =>
    exact (s.buf_raises hring h).bind fun b => (expectLive_raises hring hbad b).bind fun _ => ih.bind fun _ => .pure _

theorem State.scanNext_raises (s : State) : Raises cs s.scanNext := by
  refine (s.ringOrder_raises hring).bind fun ring => (s.liveIn_raises hring hbad ring).bind fun live => ?_
  split
  · exact .pure _
  · exact (s.buf_raises hring _).bind fun _ => .pure _

end

/-! What runs LOAD_HEAD stops with `F_ENCODE` too (R136). -/

section
variable (hring : .ring ∈ cs) (hbad : .badState ∈ cs) (henc : .encode ∈ cs)
include hring hbad henc

theorem State.loadHead_raises (s : State) (h : Nat) : Raises cs (s.loadHead h) := by
  refine (s.buf_raises hring h).bind fun b => (expectState_raises hbad _).bind fun _ => (handleOf_raises hring _).bind fun p =>
    (s.pkt_raises hring p).bind fun k => ?_
  split
  · exact .pure _
  · exact .raise henc

theorem State.completeNew_raises (s : State) (h : Nat) : Raises cs (s.completeNew h) :=
  (s.buf_raises hring h).bind fun _ => (expectState_raises hbad _).bind fun _ => .ite (.pure _)
    ((s.loadHead_raises hring hbad henc h).bind fun t => (t.linkAfter_raises hring _ h).bind fun _ => .pure _)

theorem State.complete_raises (s : State) (h : Nat) : Raises cs (s.complete h) :=
  .ite (.pure _) ((s.buf_raises hring h).bind fun _ =>
    .ite (s.completeReused_raises hring hbad h) (s.completeNew_raises hring hbad henc h))

theorem State.submitInto_raises (s : State) (a : SubmitArgs) (h : Nat) (t : State) : Raises cs (s.submitInto a h t) :=
  (t.extend_raises hring hbad h _).bind fun r => .ite (.pure _)
    ((r.state.complete_raises hring hbad henc h).bind fun _ => .pure _)

theorem State.submit_raises (s : State) (a : SubmitArgs) : Raises cs (s.submit a) := by
  refine .ite (.pure _) ?_
  split
  · exact .pure _
  · exact .pure _
  · refine (s.acquire_raises hring hbad _ _ _ _).bind fun r => ?_
    split
    · exact s.submitInto_raises hring hbad henc a _ r.state
    · exact .pure _

/-! MGR_INVOKE. -/

theorem State.service_raises (s : State) (h : Nat) : Raises cs (s.service h) :=
  (s.buf_raises hring h).bind fun _ => .ite (s.loadHead_raises hring hbad henc h)
    ((s.buf_raises hring h).bind fun _ => (s.unlink_raises hring h).bind fun _ => .pure _)

theorem drainFrom_raises (n : Nat) (l : Option Nat) (s : State) : Raises cs (drainFrom n l s) := by
  induction n generalizing l s with
  | zero => exact .ite (.ok _) (.raise hring)
  | succ n ih =>
    exact .ite (.ok _) ((handleOf_raises hring l).bind fun h => (s.buf_raises hring h).bind fun b =>
      (expectLive_raises hring hbad b).bind fun _ => (Raises.ite (s.service_raises hring hbad henc h) (.pure _)).bind fun t =>
        ih b.next t)

theorem managerBody_raises (s : State) : Raises cs (managerBody s) :=
  (s.consume.buf_raises hring 0).bind fun b => drainFrom_raises hring hbad henc _ b.next _

end

/-! TICK stops with every code but `F_ENCODE` (R161 to R163). -/

section
variable (hring : .ring ∈ cs) (hbad : .badState ∈ cs)
include hring hbad

theorem State.endOfArray_raises (s : State) (h : Nat) : Raises cs (s.endOfArray h) := by
  refine (s.buf_raises hring h).bind fun b => ?_
  split
  · exact .pure _
  · exact .ite (.pure _) (.ite (.pure _) (.pure _))
  · exact .pure _
  · exact .raise hbad

theorem State.radiableFrom_raises (s : State) (n : Nat) (l : Option Nat) : Raises cs (s.radiableFrom n l) := by
  induction n generalizing l with
  | zero => exact .raise hring
  | succ n ih =>
    refine (handleOf_raises hring l).bind fun h => (s.buf_raises hring h).bind fun b => ?_
    split
    · exact .pure _
    · exact .pure _
    · exact .pure _
    · exact ih b.next
    · exact .raise hring
    · exact .raise hbad

theorem State.nextRadiable_raises (s : State) (h : Nat) : Raises cs (s.nextRadiable h) :=
  (s.buf_raises hring h).bind fun b => s.radiableFrom_raises hring hbad _ b.next

theorem State.endTraversal_raises (hempty : .emptyArray ∈ cs) (s : State) : Raises cs s.endTraversal :=
  (s.endOfArray_raises hring hbad _).bind fun _ => (State.nextRadiable_raises hring hbad _ _).bind fun n =>
    (State.entry_raises hring _ n 0).bind fun _ => .ite (.raise hempty) (.pure _)

theorem State.nextBit_raises (hempty : .emptyArray ∈ cs) (hindex : .index ∈ cs) (s : State) : Raises cs s.nextBit :=
  .ite (.pure _) (.ite (.raise hindex) ((s.entry_raises hring _ _).bind fun _ =>
    .ite (.pure _) (State.endTraversal_raises hring hbad hempty _)))

theorem tickBody_raises (hempty : .emptyArray ∈ cs) (hindex : .index ∈ cs) (s : State) : Raises cs (tickBody s) :=
  .ite ((State.nextBit_raises hring hbad hempty hindex _).bind fun _ => .pure _) (.pure _)

end

/-! Every step. -/

/-- The fatal faults a step may raise (R215). -/
@[simp] def fatalCodes : Instr → List FatalCode
  | .tick => [.ring, .badState, .emptyArray, .index]
  | .mgrInvoke | .complete _ | .submit _ => [.ring, .badState, .encode]
  | .acquire _ | .extend _ | .cancel _ | .scanNext _ => [.ring, .badState]
  | .freeBuffers _ => [.ring]
  | .packetsSent _ | .resetScan _ | .badOpcode _ => []

/-- The body of a step stops with the fatal faults R215 gives it. A malformed operand form runs no operation (R104). -/
theorem bodyOf_raises (i : Instr) (s : State) : Raises (fatalCodes i) (bodyOf i s) := by
  cases i with
  | acquire a =>
    cases a with
    | malformed _ => exact .pure _
    | ok a => exact (s.acquire_raises (by simp) (by simp) _ _ _ _).bind fun _ => .pure _
  | extend a =>
    cases a with
    | malformed _ => exact .pure _
    | ok a => exact (s.extend_raises (by simp) (by simp) _ _).bind fun _ => .pure _
  | complete a =>
    cases a with
    | malformed _ => exact .pure _
    | ok h =>
      exact (s.complete_raises (by simp) (by simp) (by simp) _).bind fun _ => .pure _
  | cancel a =>
    cases a with
    | malformed _ => exact .pure _
    | ok h => exact (s.cancel_raises (by simp) (by simp) _).bind fun _ => .pure _
  | submit a =>
    cases a with
    | malformed _ => exact .pure _
    | ok a =>
      exact (s.submit_raises (by simp) (by simp) (by simp) _).bind fun _ => .pure _
  | freeBuffers a =>
    cases a with
    | malformed _ => exact .pure _
    | ok _ => exact (s.freeFrom_raises (by simp) _ _ _).bind fun _ => .pure _
  | scanNext a =>
    cases a with
    | malformed _ => exact .pure _
    | ok _ => exact s.scanNext_raises (by simp) (by simp)
  | packetsSent a | resetScan a =>
    cases a with
    | malformed _ => exact .pure _
    | ok _ => exact .pure _
  | badOpcode _ => exact .pure _
  | tick =>
    exact tickBody_raises (by simp) (by simp) (by simp) (by simp) s
  | mgrInvoke => exact managerBody_raises (by simp) (by simp) (by simp) s

/-- Every fatal fault has a code of its own (R10). -/
theorem FatalCode.code_injective {c d : FatalCode} (h : c.code = d.code) : c = d := by
  revert h
  cases c <;> cases d <;> decide

/-- Only the Timing Engine reads entries of an array (R161). -/
theorem eq_tick_of_fatalCodes {i : Instr} {c : FatalCode} (h : c ∈ fatalCodes i) (hc : c = .emptyArray ∨ c = .index) : i = .tick := by
  cases i with
  | tick => rfl
  | _ => obtain rfl | rfl := hc <;> simp at h

/-- Only the steps that run LOAD_HEAD encode a record (R136). -/
theorem loads_of_fatalCodes {i : Instr} (h : .encode ∈ fatalCodes i) :
    i = .mgrInvoke ∨ (∃ a, i = .complete a) ∨ ∃ a, i = .submit a := by
  cases i with
  | mgrInvoke => exact .inl rfl
  | complete a => exact .inr (.inl ⟨a, rfl⟩)
  | submit a => exact .inr (.inr ⟨a, rfl⟩)
  | _ => simp at h

/-- Settles O15: a halted next state holds the code its body stopped with, and that is one of the step's codes. -/
theorem fatalFaultsHaveTheirSources : Obligations.FatalFaultsHaveTheirSources := by
  intro i s t h ht
  obtain ⟨c, hbody, rfl⟩ := exec_eq_next_halted h ht
  have hc : c ∈ fatalCodes i := bodyOf_raises i _ c hbody
  refine ⟨fun hcode => ?_, fun hcode => ?_, ?_, ?_, ?_, ?_⟩
  · exact eq_tick_of_fatalCodes hc (hcode.imp (FatalCode.code_injective (d := .emptyArray)) (FatalCode.code_injective (d := .index)))
  · obtain rfl : c = .encode := FatalCode.code_injective hcode
    exact loads_of_fatalCodes hc
  · rintro ⟨a, rfl⟩
    obtain rfl : c = .ring := List.mem_singleton.1 hc
    rfl
  · rintro a rfl
    exact List.not_mem_nil hc
  · rintro a rfl
    exact List.not_mem_nil hc
  · rintro f rfl
    exact List.not_mem_nil hc

end Sys2Proof.Machine
end

section
/-! PROOFS. The reset event as an input: `fetch` answers it whatever the block's state, a halted one included (R217, R235). -/

namespace Sys2Proof.Machine

theorem fetch_of_agenda_reset {s : State} {rest : List Input} (ha : s.agenda = .reset :: rest) :
    fetch s = .resetTo (s.setAgenda rest).resetEvent := by
  unfold fetch
  rw [ha]

theorem step_of_fetch_resetTo {s u : State} (hc : configValid s.cfg = true) (hf : fetch s = .resetTo u) : step s = .next u := by
  unfold step
  rw [hf]
  exact whenConfigured_of_valid hc _

/-- What the reset event keeps of a state is its configuration, its agenda and the two counters (log 4, log 16). -/
theorem resetEvent_setAgenda (s : State) (rest : List Input) : (s.setAgenda rest).resetEvent =
    { State.resetWith s.cfg with agenda := rest, schedCount := s.schedCount, openCount := s.openCount } := rfl

/-- Settles O10: `fetch` meets the event before anything asks whether the block is halted, and its next state is built from the
configuration alone, with the agenda and the counters carried over. -/
theorem resetEventRestoresEverything : Obligations.ResetEventRestoresEverything := by
  intro s rest hc ha
  rw [← resetEvent_setAgenda]
  exact step_of_fetch_resetTo hc (fetch_of_agenda_reset ha)

end Sys2Proof.Machine
end
